-- ==== Sys2Proof/Word.lean ====
section
/-! DEFINITION. The words of the hardware: command and micro-operation words (30_encoding.md R81, R89), colour
codes (R83), coordinates (R85) and line levels (00_scope.md R12). -/

namespace Sys2Proof

/-- A command word (R81) or a micro-operation word (R89). -/
abbrev Word := BitVec 32

/-- A colour code: bit 0 red, bit 1 green, bit 2 blue (R83). Every value is legal (R84). -/
abbrev Color := BitVec 3

/-- A coordinate field of a command word: unsigned, 12 bits (R85). -/
abbrev Coord := BitVec 12

/-- A line level: true is 1, logic high; false is 0, logic low (R12). -/
abbrev Level := Bool

end Sys2Proof
end

