-- ==== Sys2Proof/Syntax.lean ====
section
/-! DEFINITION. The instructions: the four host commands and the two micro-operations (00_scope.md R2,
30_encoding.md R82, R89), and the signal lines that WL names (10_state.md R26). -/

namespace Sys2Proof

/-- The signal lines (10_state.md R26). `r2`, `g2`, `b2` are lane 2, which exists and is never driven (R27).
`addr i` is ADDR[i]; which of them exist depends on the geometry (`Line.present`). -/
inductive Line where
  | r1 | g1 | b1
  | r2 | g2 | b2
  | clk
  | lat
  | oe
  | addr (i : Nat)
  deriving DecidableEq, Repr

/-- One constructor per row of the opcode table. -/
inductive Instr where
  /-- CLEAR: `clear()` (R110). -/
  | clear
  /-- SET_PIXEL: `set_pixel(row, col, color)` (R113). -/
  | setPixel (row col : Coord) (color : Color)
  /-- GET_PIXEL: `get_pixel(row, col)` (R116). -/
  | getPixel (row col : Coord)
  /-- REFRESH_ONCE: `refresh_once()` (R130). -/
  | refreshOnce
  /-- WL: `write_line(line, level)`, issued by the sequencer only (R190). -/
  | wl (line : Line) (level : Level)
  /-- SLP: `sleep_microseconds(n)`, issued by the sequencer only (R193). -/
  | slp (n : Nat)
  deriving DecidableEq, Repr

end Sys2Proof
end

