-- ==== Sys2Proof/Config.lean ====
section
/-! DEFINITION. What the spec leaves to the implementation: the parameters of 00_scope.md R8, as one record, and
the free values, as constants without a body. -/

namespace Sys2Proof

/-- The levels of all lines (10_state.md R26). Bit i of `addr` is the level of ADDR[i]; AW ≤ 12
(30_encoding.md R88), so twelve bits hold every geometry's address lines. -/
structure Lines where
  r1 : Level
  g1 : Level
  b1 : Level
  r2 : Level
  g2 : Level
  b2 : Level
  clk : Level
  lat : Level
  oe : Level
  addr : BitVec 12
  deriving DecidableEq, Repr

/-- The parameters of 00_scope.md R8. The spec gives them no value and every statement is about all of them.
They stand in State and no step changes them (10_state.md R30; DESIGN CHOICE, log 1). -/
structure Config where
  /-- R, the number of row addresses. -/
  rows : Nat
  /-- C, the number of columns. -/
  cols : Nat
  /-- T_PRE, microseconds. -/
  tPre : Nat
  /-- T_HIGH, microseconds. -/
  tHigh : Nat
  /-- T_LOW, microseconds. -/
  tLow : Nat
  /-- T_LAT, microseconds. -/
  tLat : Nat
  /-- T_DWELL, microseconds. -/
  tDwell : Nat
  /-- LINE_INIT. -/
  lineInit : Lines
  deriving DecidableEq, Repr

/-- The default LINE_INIT of 10_state.md R29 (d): OE inactive, every other line 0. -/
def Lines.defaultInit : Lines :=
  { r1 := false, g1 := false, b1 := false, r2 := false, g2 := false, b2 := false,
    clk := false, lat := false, oe := true, addr := 0#12 }

/-- The parameters of `State.reset`: configuration TC2 of 95_test_vectors.md.
DESIGN CHOICE, unsafe (log 1): the spec gives no value. -/
def Config.default : Config :=
  { rows := 4, cols := 3, tPre := 1, tHigh := 1, tLow := 1, tLat := 1, tDwell := 100,
    lineInit := Lines.defaultInit }

/-- PX at reset: unspecified (10_state.md R24). A free value (log 3). -/
opaque Config.pxAtReset : Color

/-- The response of the n-th draw when GET_PIXEL is out of bounds: arbitrary, fresh each time
(40_framebuffer_store.md R117). A free value (log 7). -/
opaque Config.outOfBoundsResponse : Nat → Color

/-- Which of the cells still to be written a CLEAR in progress writes at the n-th draw: any order
(40_framebuffer_store.md R111). A free value (log 6). -/
opaque Config.clearPick : Nat → Nat

/-- By how many microseconds the step of the n-th draw lasts longer than its lower bound
(44_line_primitives.md R200). A free value (log 8). -/
opaque Config.overshoot : Nat → Nat

end Sys2Proof
end

