-- ==== Sys2Proof/Machine/Geometry.lean ====
section
/-! DEFINITION. What follows from the parameters: the number of address lines and of steps per row, which lines
and cells exist, where a column's steps stand in RowScan, and when a configuration is right. -/

namespace Sys2Proof

/-- ceil(log2(R)), the least n with 2^n ≥ R (00_scope.md R8); 0 when R = 1. -/
def addressWidth (rows : Nat) : Nat :=
  if rows ≤ 1 then 0 else Nat.log2 (rows - 1) + 1

namespace Config

/-- AW, the number of row-address lines (R8). -/
def aw (c : Config) : Nat := addressWidth c.rows

/-- The number of framebuffer cells, R·C (10_state.md R22). -/
def cellCount (c : Config) : Nat := c.rows * c.cols

/-- b(c) = 1 + AW + 10·c: where column c's steps begin in RowScan (41_gpio_protocol_sequencer.md R133). -/
def columnBase (c : Config) (col : Nat) : Nat := 1 + c.aw + 10 * col

/-- e = 1 + AW + 10·C: where the latch pulse begins in RowScan (R133). -/
def latchBase (c : Config) : Nat := 1 + c.aw + 10 * c.cols

/-- L = AW + 10·C + 7: the number of steps of one RowScan (R133). -/
def rowLength (c : Config) : Nat := c.aw + 10 * c.cols + 7

/-- The delay one row asks for: C·(T_PRE + T_HIGH + T_LOW) + T_LAT + T_DWELL (R141). -/
def rowDelay (c : Config) : Nat := c.cols * (c.tPre + c.tHigh + c.tLow) + c.tLat + c.tDwell

/-- Both coordinates are in bounds: row < R and col < C, as naturals (20_memory.md R54). -/
def inBounds (c : Config) (row col : Nat) : Bool := decide (row < c.rows) && decide (col < c.cols)

/-- The linear index r·C + c of a cell (20_memory.md R51; DESIGN CHOICE of the spec, log 9). -/
def cellIndex (c : Config) (row col : Nat) : Nat := row * c.cols + col

/-- The constraints of R8, and no initial level for an address line that does not exist: the premise Configured
(70_reset_and_hazards.md R263, R264). The delays have no constraint. -/
def wellFormed (c : Config) : Bool :=
  decide (1 ≤ c.rows) && decide (c.rows ≤ 4096) && decide (1 ≤ c.cols) && decide (c.cols ≤ 4096) &&
    decide (c.lineInit.addr.toNat < 2 ^ c.aw)

end Config

/-- The lines of 10_state.md R26: nine fixed ones and ADDR[0] … ADDR[AW−1], of which there are at most twelve
(30_encoding.md R88). -/
def Line.present (aw : Nat) : Line → Bool
  | .r1 | .g1 | .b1 | .r2 | .g2 | .b2 | .clk | .lat | .oe => true
  | .addr i => decide (i < aw) && decide (i < 12)

end Sys2Proof
end

