-- ==== Sys2Proof/WellFormed.lean ====
section
/-! DEFINITION. When an instruction is one the encodings can write: the line exists, the delay fits its field.
Coordinates and colours are right by their types (30_encoding.md R85, R86). -/

namespace Sys2Proof

/-- A host command, the code space of the command port (30_encoding.md R82, R89). -/
def Instr.isCommand : Instr → Bool
  | .clear => true
  | .setPixel _ _ _ => true
  | .getPixel _ _ => true
  | .refreshOnce => true
  | .wl _ _ => false
  | .slp _ => false

/-- An instruction that a word encodes under a geometry of `aw` address lines: WL names a line of R88's table that
exists (R91 (d)), SLP asks for a delay below 2^30 (R89). -/
def Instr.wellFormed (aw : Nat) : Instr → Bool
  | .clear => true
  | .setPixel _ _ _ => true
  | .getPixel _ _ => true
  | .refreshOnce => true
  | .wl l _ => l.present aw
  | .slp n => decide (n < 2 ^ 30)

end Sys2Proof
end

