-- ==== Sys2Proof/Decode.lean ====
section
/-! DEFINITION. The two decoders, of the command port (30_encoding.md R97) and of micro-operation words
(R88, R89), each total and refusing by name; the encoder of both; and the one function that reads a row of the
opcode table from its bits. -/

namespace Sys2Proof

/-- Why a word has no meaning (30_encoding.md R91). -/
inductive DecodeError where
  /-- A command word whose opcode is 0x0 or 0x5 to 0xF (R91 (a)). -/
  | reservedOpcode (op : BitVec 4)
  /-- A micro-operation word of kind 00 or 11 (R91 (d)). -/
  | reservedKind (kind : BitVec 2)
  /-- A WL word with one of bits 29:9 set (R91 (d)). -/
  | paddingSet
  /-- A WL word whose line identifier is not in R88's table, or names an address line that the geometry does not
  have (R91 (d)). -/
  | reservedLine (id : BitVec 8)
  deriving DecidableEq, Repr

/-- `row = word[27:16]` (R85). -/
def rowField (w : Word) : Coord := w.extractLsb' 16 12

/-- `col = word[15:4]` (R85). -/
def colField (w : Word) : Coord := w.extractLsb' 4 12

/-- `color = word[2:0]` (R86). -/
def colorField (w : Word) : Color := w.extractLsb' 0 3

/-- `op = word[31:28]` (R81). -/
def opField (w : Word) : BitVec 4 := w.extractLsb' 28 4

/-- The decoding procedure of a command word (R97): the opcode alone selects the command (R82), bit 3 and the
fields a command does not use are ignored (R91 (b)), any other opcode is refused (R91 (a)). -/
def decodeCommand (w : Word) : Except DecodeError Instr :=
  if opField w = 1#4 then .ok .clear
  else if opField w = 2#4 then .ok (.setPixel (rowField w) (colField w) (colorField w))
  else if opField w = 3#4 then .ok (.getPixel (rowField w) (colField w))
  else if opField w = 4#4 then .ok .refreshOnce
  else .error (.reservedOpcode (opField w))

/-- The line of an identifier (R88), under a geometry of `aw` address lines; none where it is reserved. -/
def lineOfId (aw : Nat) (id : BitVec 8) : Option Line :=
  match id.toNat with
  | 0 => some .r1
  | 1 => some .g1
  | 2 => some .b1
  | 3 => some .r2
  | 4 => some .g2
  | 5 => some .b2
  | 6 => some .clk
  | 7 => some .lat
  | 8 => some .oe
  | k => if 16 ≤ k ∧ (Line.addr (k - 16)).present aw then some (.addr (k - 16)) else none

/-- The identifier of a line (R88). -/
def lineId : Line → BitVec 8
  | .r1 => 0#8
  | .g1 => 1#8
  | .b1 => 2#8
  | .r2 => 3#8
  | .g2 => 4#8
  | .b2 => 5#8
  | .clk => 6#8
  | .lat => 7#8
  | .oe => 8#8
  | .addr i => BitVec.ofNat 8 (16 + i)

/-- The decoder of micro-operation words (R89), under a geometry of `aw` address lines. -/
def decodeUop (aw : Nat) (w : Word) : Except DecodeError Instr :=
  if w.extractLsb' 30 2 = 1#2 then
    if w.extractLsb' 9 21 = 0#21 then
      match lineOfId aw (w.extractLsb' 1 8) with
      | some l => .ok (.wl l (w.getLsbD 0))
      | none => .error (.reservedLine (w.extractLsb' 1 8))
    else .error .paddingSet
  else if w.extractLsb' 30 2 = 2#2 then .ok (.slp (w.extractLsb' 0 30).toNat)
  else .error (.reservedKind (w.extractLsb' 30 2))

/-- The word of an instruction, unused fields 0 (R81, R82, R88, R89). -/
def encode : Instr → Word
  | .clear => 0x10000000#32
  | .setPixel row col color =>
      0x20000000#32 ||| (row.zeroExtend 32 <<< 16) ||| (col.zeroExtend 32 <<< 4) ||| color.zeroExtend 32
  | .getPixel row col => 0x30000000#32 ||| (row.zeroExtend 32 <<< 16) ||| (col.zeroExtend 32 <<< 4)
  | .refreshOnce => 0x40000000#32
  | .wl l v => 0x40000000#32 ||| ((lineId l).zeroExtend 32 <<< 1) ||| (if v then 1#32 else 0#32)
  | .slp n => 0x80000000#32 ||| (BitVec.ofNat 30 n).zeroExtend 32

/-- The instruction of an opcode-table word. Command words and micro-operation words are two code spaces
(R89) and the words 0x40000000 to 0x400001FF stand in both. DESIGN CHOICE (log 10): here the table's more specific
row, WL, comes first; where its word names a reserved line (R91 (d)), as 0x40000012 does, it is no WL and, like every
other word, it goes to the command port's decoder, which reads REFRESH_ONCE; a word that is no command is tried as a
micro-operation last. The machine itself never mixes the two: `step` reads its port with `decodeCommand` alone. -/
def decodeTableWord (nbits w : Nat) : Option Instr :=
  let word := BitVec.ofNat 32 (w % 2 ^ nbits)
  let uop := (decodeUop 12 word).toOption
  let command := (decodeCommand word).toOption
  if word &&& 0xFFFFFE00#32 = 0x40000000#32 then uop <|> command else command <|> uop

end Sys2Proof
end

