-- ==== Sys2Proof/Machine/State.lean ====
section
/-! DEFINITION. The state of the machine (10_state.md R20, R32, R35), why a step can stop, and reset (R29). -/

namespace Sys2Proof.Machine

/-- The framebuffer: (linear index r·C + c, colour) pairs, indices strictly rising, no black entry; a cell that is
not listed is black, which is what reset leaves (10_state.md R29 (a), 20_memory.md R51; log 9). -/
abbrev Memory := List (Nat × Color)

/-- The sequencer's position (10_state.md R23): `busy a i` is the next step i of RowScan(a). -/
inductive Seq where
  | idle
  | busy (a i : Nat)
  deriving DecidableEq, Repr

/-- An event of the trace (44_line_primitives.md R196). A delay event carries the requested time (R198). -/
inductive Event where
  | write (l : Line) (v : Level)
  | delay (n : Nat)
  deriving DecidableEq, Repr

/-- The two agents (60_exceptions.md R240). -/
inductive Agent where
  | host
  | sequencer
  deriving DecidableEq, Repr

/-- The panel observer (45_panel_observer.md R211): stage 0 of `sr` is nearest the serial input. A stage nothing
has written holds no value (R211: the spec's own state of an external device; log 18). -/
structure Panel where
  sr : List (Option Color)
  latched : List (Option Color)
  deriving DecidableEq, Repr

/-- Everything the spec gives the machine, and two fields of the model's own (`sched`, `draws`). -/
structure State where
  /-- The parameters (00_scope.md R8); no step writes them. -/
  cfg : Config
  /-- FB (10_state.md R22). -/
  fb : Memory
  /-- LINE (10_state.md R26). -/
  line : Lines
  /-- SEQ (10_state.md R23). BUSY is derived from it (R25). -/
  seq : Seq
  /-- PX (10_state.md R24). -/
  px : Color
  /-- RESP, the command port's output: a value exactly when the last step ended a GET_PIXEL (10_state.md R35). -/
  resp : Option Color
  /-- The cells, by linear index, that a CLEAR in progress has still to write (40_framebuffer_store.md R111). -/
  clearing : List Nat
  /-- The command words the host has still to present, in order; the head stands on the command port
  (60_exceptions.md R240). -/
  port : List Word
  /-- The model's own: which agent moves at each coming step where both could (60_exceptions.md R241; log 4). -/
  sched : List Agent
  /-- TRACE, ghost (44_line_primitives.md R196). -/
  trace : List Event
  /-- The responses returned along the way, ghost (60_exceptions.md R243). -/
  responses : List Color
  /-- The panel observer, ghost (45_panel_observer.md R211). -/
  panel : Panel
  /-- t, microseconds, ghost (44_line_primitives.md R200). -/
  time : Nat
  /-- The model's own: the counter that the free values of Config are applied to (log 8). -/
  draws : Nat
  deriving DecidableEq, Repr

/-- Why the machine stops with a fault. -/
inductive Fault where
  /-- Raised by a sequencer step whose position is not one of [0, R) × [0, L), which 10_state.md R23 says never
  occurs. Safe: no run from a launched state reaches it (log 15). -/
  | sequencerLost (a i : Nat)
  deriving DecidableEq, Repr

/-- Why an input has no meaning. -/
inductive Refusal where
  /-- Raised by an arm of `exec` whose instruction has no meaning yet. Safe. -/
  | notModelled (mnemonic : String)
  /-- Raised by `step` when the host presents a command word with a reserved opcode (30_encoding.md R91 (a),
  60_exceptions.md R236). Safe: the spec says a model refuses it (log 13). -/
  | reservedCommand (w : Word)
  /-- Raised by WL on an address line that the geometry does not have (30_encoding.md R91 (d)). Safe: the sequencer
  never issues one (log 16). -/
  | absentLine (l : Line)
  /-- Raised by `step` in a state whose parameters break 00_scope.md R8: a misconfigured system is not launched
  (70_reset_and_hazards.md R263). Safe (log 14). -/
  | misconfigured
  deriving DecidableEq, Repr

/-- The machine right after reset, for given parameters (10_state.md R29). -/
def State.resetWith (c : Config) : State :=
  { cfg := c
    fb := []
    line := c.lineInit
    seq := .idle
    px := Config.pxAtReset
    resp := none
    clearing := []
    port := []
    sched := []
    trace := []
    responses := []
    panel := { sr := List.replicate c.cols none, latched := List.replicate c.cols none }
    time := 0
    draws := 0 }

/-- The machine right after reset, for the parameters `Config.default` (log 1). -/
def State.reset : State := State.resetWith Config.default

end Sys2Proof.Machine
end

