-- ==== Sys2Proof/Machine/Flags.lean ====
section
/-! DEFINITION. The one flag (10_state.md R25): no instruction computes any other. -/

namespace Sys2Proof.Machine

/-- `BUSY = 1` if SEQ ≠ Idle (10_state.md R25). -/
def State.busy (s : State) : Bool :=
  match s.seq with
  | .idle => false
  | .busy _ _ => true

end Sys2Proof.Machine
end

