-- ==== Sys2Proof/Machine/Operands.lean ====
section
/-! DEFINITION. Operand forms: the bits of a colour code (30_encoding.md R83), the bits of a row address (R87), a
command's coordinates as a cell (R85, 20_memory.md R54), and a line's place in LINE (10_state.md R26). -/

namespace Sys2Proof.Machine

/-- `red = k[0]` (R83). -/
def red (k : Color) : Level := k.getLsbD 0

/-- `green = k[1]` (R83). -/
def green (k : Color) : Level := k.getLsbD 1

/-- `blue = k[2]` (R83). -/
def blue (k : Color) : Level := k.getLsbD 2

/-- A level as a number (00_scope.md R12). -/
def levelBit (v : Level) : Color := if v then 1#3 else 0#3

/-- `k = red | green << 1 | blue << 2` (R83). -/
def colorOf (r g b : Level) : Color := levelBit r ||| (levelBit g <<< 1) ||| (levelBit b <<< 2)

/-- `bit(a, j)`, the level of ADDR[j] for row address a (R87). -/
def addressBit (a j : Nat) : Level := a.testBit j

/-- The cell a command's coordinates name, as a linear index; none out of bounds (20_memory.md R54). -/
def cellOf (c : Config) (row col : Coord) : Option Nat :=
  if c.inBounds row.toNat col.toNat then some (c.cellIndex row.toNat col.toNat) else none

/-- `v` with bit `i` at level `b`. -/
def setAddressBit (v : BitVec 12) (i : Nat) (b : Level) : BitVec 12 :=
  if b then v ||| (1#12 <<< i) else v &&& ~~~(1#12 <<< i)

/-- `LINE[l]` (00_scope.md R13). -/
def getLine (ln : Lines) : Line → Level
  | .r1 => ln.r1
  | .g1 => ln.g1
  | .b1 => ln.b1
  | .r2 => ln.r2
  | .g2 => ln.g2
  | .b2 => ln.b2
  | .clk => ln.clk
  | .lat => ln.lat
  | .oe => ln.oe
  | .addr i => ln.addr.getLsbD i

/-- `LINE[l] <- v` (00_scope.md R13). -/
def setLine (ln : Lines) (l : Line) (v : Level) : Lines :=
  match l with
  | .r1 => { ln with r1 := v }
  | .g1 => { ln with g1 := v }
  | .b1 => { ln with b1 := v }
  | .r2 => { ln with r2 := v }
  | .g2 => { ln with g2 := v }
  | .b2 => { ln with b2 := v }
  | .clk => { ln with clk := v }
  | .lat => { ln with lat := v }
  | .oe => { ln with oe := v }
  | .addr i => { ln with addr := setAddressBit ln.addr i v }

/-- The code on the address lines: the sum over j < AW of LINE[ADDR[j]] << j (45_panel_observer.md R215). -/
def addressOnLines (aw : Nat) (ln : Lines) : Nat :=
  (List.range aw).foldl (fun acc j => acc + (if getLine ln (.addr j) then 2 ^ j else 0)) 0

end Sys2Proof.Machine
end

