-- ==== Sys2Proof/Machine/Observer.lean ====
section
/-! DEFINITION. The panel as an observer (45_panel_observer.md): it reads LINE and influences nothing. -/

namespace Sys2Proof.Machine

/-- The rising edge of CLK (R212): every stage moves one on, stage 0 takes the colour lines, what stood in the last
of the C stages is lost. Sampling on the rising edge is PRESUMED (the spec's G2; log 18). -/
def Panel.shift (cols : Nat) (p : Panel) (ln : Lines) : Panel :=
  { p with sr := (some (colorOf ln.r1 ln.g1 ln.b1) :: p.sr).take cols }

/-- The rising edge of LAT (R214): the output stage takes all stages at once. -/
def Panel.latch (p : Panel) : Panel := { p with latched := p.sr }

/-- What the panel does when line `l` is written with `v` while the lines are at `ln`: only a change from 0 to 1 of
CLK or of LAT moves it (R212, R214); it ignores lane 2 (R216). -/
def Panel.onWrite (cols : Nat) (p : Panel) (ln : Lines) (l : Line) (v : Level) : Panel :=
  match l with
  | .clk => if !ln.clk && v then p.shift cols ln else p
  | .lat => if !ln.lat && v then p.latch else p
  | .r1 | .g1 | .b1 | .r2 | .g2 | .b2 | .oe | .addr _ => p

/-- What is illuminated: row A with the output stage's colours while OE is 0, nothing while OE is 1 (R215). -/
def Panel.illuminated (aw : Nat) (p : Panel) (ln : Lines) : Option (Nat × List (Option Color)) :=
  if ln.oe then none else some (addressOnLines aw ln, p.latched)

end Sys2Proof.Machine
end

