-- ==== Sys2Proof/Machine/Ops.lean ====
section
/-! DEFINITION. The named operations every meaning is made of: the cell primitives (20_memory.md R52, R53), the
line write and the event (44_line_primitives.md R190, R196), time (R200), the response (10_state.md R35), and one
cell write of a CLEAR (40_framebuffer_store.md R111).
There is no operation that takes an exception or returns from one: the hardware raises none (60_exceptions.md R230,
R234, R235), so no state is saved and no mode changes. -/

namespace Sys2Proof.Machine

/-- `FB[k]` by linear index: the value last written, 0 where nothing was written since reset (R52). -/
def Memory.read : Memory → Nat → Color
  | [], _ => 0#3
  | (a, v) :: m, k => if a = k then v else Memory.read m k

/-- `FB[k] <- v` by linear index (R53). Writing black, which an unlisted cell reads as, removes the entry. -/
def Memory.write (m : Memory) (k : Nat) (v : Color) : Memory :=
  m.filter (fun e => decide (e.1 < k)) ++ (if v = 0#3 then [] else [(k, v)]) ++
    m.filter (fun e => decide (k < e.1))

/-- The canonical form: indices strictly rising, no black entry. -/
def Memory.wf : Memory → Bool
  | [] => true
  | [e] => e.2 != 0#3
  | e :: f :: m => e.2 != 0#3 && decide (e.1 < f.1) && Memory.wf (f :: m)

/-- The double loop of CLEAR (40_framebuffer_store.md R110), over linear indices: `FB[k] <- 0` for every k < n. -/
def Memory.clear (m : Memory) (n : Nat) : Memory :=
  (List.range n).foldl (fun m k => m.write k 0#3) m

/-- `FB[r][c]` (20_memory.md R52). -/
def State.pixel (s : State) (row col : Nat) : Color := s.fb.read (s.cfg.cellIndex row col)

/-- A step's time: at least `n` microseconds, and by how much more is a draw (44_line_primitives.md R200; log 8). -/
def State.elapse (s : State) (n : Nat) : State :=
  { s with time := s.time + n + Config.overshoot s.draws, draws := s.draws + 1 }

/-- `FB[k] <- v`. -/
def State.writeCell (s : State) (k : Nat) (v : Color) : State := { s with fb := s.fb.write k v }

/-- `RESP <- k` (40_framebuffer_store.md R116), noted among the responses of the run (60_exceptions.md R243). -/
def State.respond (s : State) (k : Color) : State :=
  { s with resp := some k, responses := s.responses ++ [k] }

/-- `emit e` (44_line_primitives.md R196). -/
def State.emit (s : State) (e : Event) : State := { s with trace := s.trace ++ [e] }

/-- `LINE[l] <- v`, seen by the panel as it happens (00_scope.md R13, 45_panel_observer.md R210). -/
def State.writeLine (s : State) (l : Line) (v : Level) : State :=
  { s with line := setLine s.line l v, panel := s.panel.onWrite s.cfg.cols s.line l v }

/-- `PX <- FB[a][c]`, the step READ(a, c): no event, no line (42_row_reader_and_bit_serializer.md R150). -/
def State.readCell (s : State) (a c : Nat) : State := { s with px := s.pixel a c }

/-- One of the remaining cell writes of a CLEAR in progress (40_framebuffer_store.md R111): which one is a draw
(log 6). -/
def State.clearOne (s : State) : State :=
  let i := Config.clearPick s.draws % s.clearing.length
  match s.clearing[i]? with
  | some k => { s with fb := s.fb.write k 0#3, clearing := s.clearing.eraseIdx i }
  | none => s

end Sys2Proof.Machine
end

