-- ==== Sys2Proof/Machine/FramebufferStore.lean ====
section
/-! DEFINITION. The framebuffer store's commands (40_framebuffer_store.md). None touches LINE, SEQ or PX (R118). -/

namespace Sys2Proof.Machine

/-- CLEAR (R110, R111): one step over the whole grid while SEQ = Idle; otherwise the first of R·C single-cell
steps, the others following as host steps of their own. -/
def execClear (s : State) : Host.Outcome State Fault Refusal :=
  match s.seq with
  | .idle => .next ({ s with fb := s.fb.clear s.cfg.cellCount }.elapse 0)
  | .busy _ _ => .next (({ s with clearing := List.range s.cfg.cellCount }.clearOne).elapse 0)

/-- SET_PIXEL (R113): writes the cell in bounds; out of bounds it is ignored and completes (R114,
60_exceptions.md R237). -/
def execSetPixel (row col : Coord) (color : Color) (s : State) : Host.Outcome State Fault Refusal :=
  match cellOf s.cfg row col with
  | some k => .next ((s.writeCell k color).elapse 0)
  | none => .next (s.elapse 0)

/-- GET_PIXEL (R116): answers the cell in bounds, and an arbitrary fresh value out of bounds (R117; log 7). -/
def execGetPixel (row col : Coord) (s : State) : Host.Outcome State Fault Refusal :=
  match cellOf s.cfg row col with
  | some k => .next ((s.respond (s.fb.read k)).elapse 0)
  | none => .next ((s.respond (Config.outOfBoundsResponse s.draws)).elapse 0)

end Sys2Proof.Machine
end

