-- ==== Sys2Proof/Machine/LinePrimitives.lean ====
section
/-! DEFINITION. The two micro-operations (44_line_primitives.md R190, R193). The sequencer's advance past them is
its own (41_gpio_protocol_sequencer.md R135). -/

namespace Sys2Proof.Machine

/-- WL: `LINE[l] <- v`, `emit Write(l, v)` (R190), the event also where the level does not change (R192). An
address line that the geometry does not have is no operand (30_encoding.md R91 (d); log 16). -/
def execWl (l : Line) (v : Level) (s : State) : Host.Outcome State Fault Refusal :=
  if l.present s.cfg.aw then .next (((s.writeLine l v).emit (.write l v)).elapse 0)
  else .refused (.absentLine l)

/-- SLP: `emit Delay(n)`, and time grows by some d ≥ n (R193). -/
def execSlp (n : Nat) (s : State) : Host.Outcome State Fault Refusal :=
  .next ((s.emit (.delay n)).elapse n)

end Sys2Proof.Machine
end

