-- ==== Sys2Proof/Machine/Refresh.lean ====
section
/-! DEFINITION. REFRESH_ONCE (41_gpio_protocol_sequencer.md R130). -/

namespace Sys2Proof.Machine

/-- REFRESH_ONCE: accepted while SEQ = Idle, `SEQ <- Busy(0, 0)` (R130); while SEQ ≠ Idle it is held and changes
nothing (60_exceptions.md R238; log 12). -/
def execRefreshOnce (s : State) : Host.Outcome State Fault Refusal :=
  match s.seq with
  | .idle => .next ({ s with seq := .busy 0 0 }.elapse 0)
  | .busy _ _ => .next s

end Sys2Proof.Machine
end

