-- ==== Sys2Proof/Machine/Dispatch.lean ====
section
/-! DEFINITION. One arm per instruction. -/

namespace Sys2Proof.Machine

def exec (i : Instr) (s : State) : Host.Outcome State Fault Refusal :=
  match i with
  | .clear => Sys2Proof.Machine.execClear s
  | .setPixel row col color => Sys2Proof.Machine.execSetPixel row col color s
  | .getPixel row col => Sys2Proof.Machine.execGetPixel row col s
  | .refreshOnce => Sys2Proof.Machine.execRefreshOnce s
  | .wl l v => Sys2Proof.Machine.execWl l v s
  | .slp n => Sys2Proof.Machine.execSlp n s

end Sys2Proof.Machine
end

