-- ==== Sys2Proof/Machine/Sequencer.lean ====
section
/-! DEFINITION. RowScan (41_gpio_protocol_sequencer.md R133): the entry at each position, and how the position
advances (R135). The four sub-blocks of 00_scope.md R19 are parts of this list. -/

namespace Sys2Proof.Machine

/-- An entry of RowScan: the internal step READ(a, c), which leaves no event (00_scope.md R14), or a
micro-operation. -/
inductive RowStep where
  | read (a c : Nat)
  | issue (u : Instr)
  deriving DecidableEq, Repr

/-- The ten entries of column `c`, b(c)+0 to b(c)+9 (R133): the cell read (42_row_reader_and_bit_serializer.md
R150), the colour drive from PX (R152) and the clock pulse (R154). -/
def columnStep (cfg : Config) (px : Color) (a c j : Nat) : RowStep :=
  match j with
  | 0 => .read a c
  | 1 => .issue (.wl .r1 (red px))
  | 2 => .issue (.wl .g1 (green px))
  | 3 => .issue (.wl .b1 (blue px))
  | 4 => .issue (.wl .clk false)
  | 5 => .issue (.slp cfg.tPre)
  | 6 => .issue (.wl .clk true)
  | 7 => .issue (.slp cfg.tHigh)
  | 8 => .issue (.wl .clk false)
  | _ => .issue (.slp cfg.tLow)

/-- The six entries after the columns, e+0 to e+5 (R133): the latch pulse (43_row_mux_timer.md R174), the output
enable (R176) and the row dwell (R177). -/
def tailStep (cfg : Config) (j : Nat) : RowStep :=
  match j with
  | 0 => .issue (.wl .lat false)
  | 1 => .issue (.wl .lat true)
  | 2 => .issue (.slp cfg.tLat)
  | 3 => .issue (.wl .lat false)
  | 4 => .issue (.wl .oe false)
  | _ => .issue (.slp cfg.tDwell)

/-- Entry i of RowScan(a) (R133), for i < L: the output disable (43_row_mux_timer.md R170), the address drive
(R172), the columns in ascending order, and what follows them. The levels of the colour writes come from PX. -/
def rowStep (cfg : Config) (px : Color) (a i : Nat) : RowStep :=
  if i = 0 then .issue (.wl .oe true)
  else if i ≤ cfg.aw then .issue (.wl (.addr (i - 1)) (addressBit a (i - 1)))
  else if i < cfg.latchBase then
    columnStep cfg px a ((i - cfg.columnBase 0) / 10) ((i - cfg.columnBase 0) % 10)
  else tailStep cfg (i - cfg.latchBase)

/-- Where the sequencer stands after step i of RowScan(a) (R135). -/
def advanceSeq (cfg : Config) (a i : Nat) : Seq :=
  if i + 1 < cfg.rowLength then .busy a (i + 1)
  else if a + 1 < cfg.rows then .busy (a + 1) 0
  else .idle

/-- The position is one of [0, R) × [0, L) (10_state.md R23). -/
def positionInRange (cfg : Config) (a i : Nat) : Bool :=
  decide (a < cfg.rows) && decide (i < cfg.rowLength)

/-- `SEQ <-` the position after step i of RowScan(a) (R135). -/
def State.advance (s : State) (a i : Nat) : State := { s with seq := advanceSeq s.cfg a i }

end Sys2Proof.Machine
end

