-- ==== Sys2Proof/Machine/Agents.lean ====
section
/-! DEFINITION. The two agents and which of them moves (60_exceptions.md R240, R241). -/

namespace Sys2Proof.Machine

/-- The command port takes this instruction now. The store's commands are accepted whatever SEQ is
(40_framebuffer_store.md R118), REFRESH_ONCE only while SEQ = Idle (60_exceptions.md R238). Micro-operations are
never presented there (30_encoding.md R89). -/
def State.accepts (s : State) (i : Instr) : Bool :=
  match i with
  | .clear => true
  | .setPixel _ _ _ => true
  | .getPixel _ _ => true
  | .refreshOnce => !s.busy
  | .wl _ _ => false
  | .slp _ => false

/-- The host has an enabled step: a cell write of a CLEAR in progress, or a word on the port that is accepted or
that the model refuses (R241). A held REFRESH_ONCE is no enabled step and keeps the words behind it waiting
(R238, R240). -/
def State.hostReady (s : State) : Bool :=
  !s.clearing.isEmpty ||
    match s.port with
    | [] => false
    | w :: _ =>
      match decodeCommand w with
      | .ok i => s.accepts i
      | .error _ => true

/-- Both agents have an enabled step. -/
def State.contested (s : State) : Bool := s.hostReady && s.busy

/-- Which agent moves. Where both could, the head of `sched` says; past its end the sequencer goes first, as with
the intended caller, which waits until BUSY falls (R241; DESIGN CHOICE, log 4). -/
def State.turn (s : State) : Option Agent :=
  match s.hostReady, s.busy with
  | false, false => none
  | true, false => some .host
  | false, true => some .sequencer
  | true, true => some (s.sched.headD .sequencer)

/-- What every step begins with: RESP is not held (10_state.md R35), and a contested step uses up its entry of the
schedule. -/
def State.beginStep (s : State) : State :=
  { s with resp := none, sched := if s.contested then s.sched.tail else s.sched }

/-- The word on the port is taken off it. -/
def State.takeWord (s : State) : State := { s with port := s.port.tail }

/-- A step of the host (R241 (a)): the next cell of a CLEAR in progress, or else the command on the port. A
reserved word is refused (60_exceptions.md R236). -/
def hostStep (s : State) : Host.Outcome State Fault Refusal :=
  match s.clearing with
  | _ :: _ => .next (s.clearOne.elapse 0)
  | [] =>
    match s.port with
    | [] => .next s
    | w :: _ =>
      match decodeCommand w with
      | .ok i => exec i s.takeWord
      | .error _ => .refused (.reservedCommand w)

/-- A step of the sequencer (41_gpio_protocol_sequencer.md R135): perform entry i of RowScan(a), then advance. -/
def sequencerStep (s : State) : Host.Outcome State Fault Refusal :=
  match s.seq with
  | .idle => .next s
  | .busy a i =>
    if positionInRange s.cfg a i then
      match rowStep s.cfg s.px a i with
      | .read r c => .next (((s.readCell r c).elapse 0).advance a i)
      | .issue u =>
        match exec u s with
        | .next t => .next (t.advance a i)
        | .fault f => .fault f
        | .refused r => .refused r
    else .fault (.sequencerLost a i)

/-- One step of the run (R241). A misconfigured system is not launched (70_reset_and_hazards.md R263; log 14);
where no agent has a step nothing moves (log 17). -/
def stepOf (s : State) : Host.Outcome State Fault Refusal :=
  if s.cfg.wellFormed then
    match s.turn with
    | none => .next s.beginStep
    | some .host => hostStep s.beginStep
    | some .sequencer => sequencerStep s.beginStep
  else .refused .misconfigured

end Sys2Proof.Machine
end

