-- ==== Sys2Proof/Machine/Fetch.lean ====
section
/-! DEFINITION. How a given instruction is made the very next thing the machine runs: a command word is put on the
command port, a micro-operation by putting the sequencer at the entry of RowScan that issues it (log 5, log 11). -/

namespace Sys2Proof.Machine

/-- The command word stands on the port and the host moves next. -/
def State.placeCommand (s : State) (w : Word) : State :=
  let s1 : State :=
    { s with
      port := w :: s.port
      clearing := []
      seq := match decodeCommand w with
        | .ok .refreshOnce => .idle
        | _ => s.seq }
  { s1 with sched := if s1.contested then .host :: s1.sched else s1.sched }

/-- The sequencer stands at step i of RowScan(a) and moves next. -/
def State.placeSequencer (s : State) (a i : Nat) : State :=
  let s1 : State := { s with seq := .busy a i }
  { s1 with sched := if s1.contested then .sequencer :: s1.sched else s1.sched }

/-- The sequencer stands at an entry that issues WL(l, v): with PX holding the level for a colour line, with the
row address and, if need be, the geometry that drive an address line so. No entry writes lane 2
(10_state.md R27). -/
def State.placeWl (s : State) (l : Line) (v : Level) : State :=
  let c := s.cfg
  match l with
  | .r1 => { s with px := colorOf v v v }.placeSequencer 0 (c.columnBase 0 + 1)
  | .g1 => { s with px := colorOf v v v }.placeSequencer 0 (c.columnBase 0 + 2)
  | .b1 => { s with px := colorOf v v v }.placeSequencer 0 (c.columnBase 0 + 3)
  | .r2 => s
  | .g2 => s
  | .b2 => s
  | .clk => s.placeSequencer 0 (c.columnBase 0 + if v then 6 else 4)
  | .lat => s.placeSequencer 0 (c.latchBase + if v then 1 else 0)
  | .oe => s.placeSequencer 0 (if v then 0 else c.latchBase + 4)
  | .addr j =>
    { s with cfg := { c with rows := max c.rows (2 ^ j + 1) } }.placeSequencer (if v then 2 ^ j else 0) (j + 1)

/-- The sequencer stands at the pre-clock settle of column 0, T_PRE being `n`. -/
def State.placeSlp (s : State) (n : Nat) : State :=
  { s with cfg := { s.cfg with tPre := n } }.placeSequencer 0 (s.cfg.columnBase 0 + 5)

/-- The instruction of an opcode-table word (log 10) is what the next step runs; a word without one, which is also no
command word, goes to the port, where the step refuses it. -/
def State.placeTableWord (s : State) (nbits w : Nat) : State :=
  match decodeTableWord nbits w with
  | some (.wl l v) => s.placeWl l v
  | some (.slp n) => s.placeSlp n
  | _ => s.placeCommand (BitVec.ofNat 32 (w % 2 ^ nbits))

end Sys2Proof.Machine
end

