-- ==== Sys2Proof/Machine/Step.lean ====
section
/-! DEFINITION. The step of the machine and the placing of an instruction where it is fetched. -/

namespace Sys2Proof.Machine

/-- One step of one agent (60_exceptions.md R241). -/
def step (s : State) : Host.Outcome State Fault Refusal := stepOf s

/-- `s` with the instruction of an opcode-table word placed so that the very next step runs it (log 11). -/
def State.withFetchWord (s : State) (nbits w : Nat) : State := s.placeTableWord nbits w

end Sys2Proof.Machine
end

