-- ==== Sys2Proof/Machine/Trace.lean ====
section
/-! DEFINITION. Reading a trace: its words (30_encoding.md R89), the named sequences of R95 and the closed form of a
frame (41_gpio_protocol_sequencer.md R140), the levels it leaves and its waveform (44_line_primitives.md R199), what
the panel makes of it (45_panel_observer.md R210), and the delay it asks for (R141). -/

namespace Sys2Proof.Machine

/-- The micro-operation whose step appends the event (44_line_primitives.md R196). -/
def Event.uop : Event → Instr
  | .write l v => .wl l v
  | .delay n => .slp n

/-- The micro-operation word of an event (30_encoding.md R89). -/
def Event.word (e : Event) : Word := encode e.uop

/-- The delay an event asks for. -/
def Event.requested : Event → Nat
  | .write _ _ => 0
  | .delay n => n

/-- SETADDR(a) (30_encoding.md R95). -/
def setAddrEvents (c : Config) (a : Nat) : List Event :=
  (List.range c.aw).map fun j => .write (.addr j) (addressBit a j)

/-- CLKPULSE (R95). -/
def clkPulseEvents (c : Config) : List Event :=
  [.write .clk false, .delay c.tPre, .write .clk true, .delay c.tHigh, .write .clk false, .delay c.tLow]

/-- COLUMN(k) (R95). -/
def columnEvents (c : Config) (k : Color) : List Event :=
  [.write .r1 (red k), .write .g1 (green k), .write .b1 (blue k)] ++ clkPulseEvents c

/-- LATPULSE (R95). -/
def latPulseEvents (c : Config) : List Event :=
  [.write .lat false, .write .lat true, .delay c.tLat, .write .lat false]

/-- RowTrace(a, row) (R140), `row` giving the colour of each column. -/
def rowTrace (c : Config) (a : Nat) (row : Nat → Color) : List Event :=
  [.write .oe true] ++ setAddrEvents c a ++ (List.range c.cols).flatMap (fun col => columnEvents c (row col)) ++
    latPulseEvents c ++ [.write .oe false, .delay c.tDwell]

/-- The colours of framebuffer row `a`. -/
def rowColors (c : Config) (fb : Memory) (a col : Nat) : Color := fb.read (c.cellIndex a col)

/-- FrameTrace(FB) (R140). -/
def frameTrace (c : Config) (fb : Memory) : List Event :=
  (List.range c.rows).flatMap fun a => rowTrace c a (rowColors c fb a)

/-- The levels after one event: a write sets its line, a delay changes nothing (44_line_primitives.md R199). -/
def Event.levels (ln : Lines) : Event → Lines
  | .write l v => setLine ln l v
  | .delay _ => ln

/-- The levels after a list of events. -/
def levelsAfter (ln : Lines) (es : List Event) : Lines := es.foldl Event.levels ln

/-- The trace without the writes that do not change their line (R199). -/
def waveform (ln : Lines) : List Event → List Event
  | [] => []
  | .write l v :: es =>
    if getLine ln l = v then waveform ln es else .write l v :: waveform (setLine ln l v) es
  | .delay n :: es => .delay n :: waveform ln es

/-- The panel after a list of events, watched from the levels `ln` on (45_panel_observer.md R212, R214). -/
def panelAfter (cols : Nat) (ln : Lines) (p : Panel) : List Event → Panel
  | [] => p
  | .write l v :: es => panelAfter cols (setLine ln l v) (p.onWrite cols ln l v) es
  | .delay _ :: es => panelAfter cols ln p es

/-- The sum of the delays a list of events asks for. -/
def requestedDelay (es : List Event) : Nat := (es.map Event.requested).sum

end Sys2Proof.Machine
end

