-- ==== Sys2Proof/Safety.lean ====
section
/-! DEFINITION. The terms that claims are stated in: launch and end of a run (70_reset_and_hazards.md R264,
60_exceptions.md R243), the invariant of the state, what the lines hold at each position of the sequencer
(41_gpio_protocol_sequencer.md R133, R138), and how far a frame has come (R140). -/

namespace Sys2Proof.Machine

/-- The premises Configured, LinesConfigured and FreshState (70_reset_and_hazards.md R264): right after reset, for
any parameters, any commands the host will present, any schedule, and with PX unspecified. -/
structure State.Fresh (s : State) : Prop where
  configured : s.cfg.wellFormed = true
  black : s.fb = []
  lines : s.line = s.cfg.lineInit
  idle : s.seq = .idle
  noResponse : s.resp = none
  noClear : s.clearing = []
  noEvent : s.trace = []
  noResponses : s.responses = []
  panel : s.panel = { sr := List.replicate s.cfg.cols none, latched := List.replicate s.cfg.cols none }
  time : s.time = 0

/-- A run is finished: the host has no further command and SEQ = Idle, no CLEAR half done
(60_exceptions.md R243). -/
def State.finished (s : State) : Bool := s.port.isEmpty && s.clearing.isEmpty && !s.busy

/-- SEQ has one of its values (10_state.md R20, R23). -/
def seqInRange (c : Config) : Seq → Bool
  | .idle => true
  | .busy a i => positionInRange c a i

/-- What every launched state keeps: the parameters are right (R263), FB is in canonical form and holds no cell
outside [0, R) × [0, C) (10_state.md R22), SEQ is in its range (R23), a CLEAR in progress has each cell at most once
and in bounds (40_framebuffer_store.md R111), LINE has no more address lines than AW (10_state.md R26), the panel has
C stages (45_panel_observer.md R211). -/
structure State.Inv (s : State) : Prop where
  configured : s.cfg.wellFormed = true
  canonical : s.fb.wf = true
  inside : ∀ e ∈ s.fb, e.1 < s.cfg.cellCount
  position : seqInRange s.cfg s.seq = true
  clearingOnce : s.clearing.Nodup
  clearingInside : ∀ k ∈ s.clearing, k < s.cfg.cellCount
  addressLines : s.line.addr.toNat < 2 ^ s.cfg.aw
  stages : s.panel.sr.length = s.cfg.cols
  outputs : s.panel.latched.length = s.cfg.cols

/-- The lines before step j of column c (41_gpio_protocol_sequencer.md R133): the colour lines driven so far hold
PX's bits, CLK is low before its rise, high until its fall, low after it. -/
structure ColumnLines (ln : Lines) (px : Color) (c j : Nat) : Prop where
  red : 2 ≤ j → ln.r1 = red px
  green : 3 ≤ j → ln.g1 = green px
  blue : 4 ≤ j → ln.b1 = blue px
  clkHigh : 7 ≤ j → j ≤ 8 → ln.clk = true
  clkLow : (j = 5 ∨ j = 6 ∨ j = 9) ∨ (0 < c ∧ j ≤ 4) → ln.clk = false

/-- The lines before step j of the six that follow the columns (R133). -/
structure TailLines (ln : Lines) (px : Color) (j : Nat) : Prop where
  red : ln.r1 = red px
  green : ln.g1 = green px
  blue : ln.b1 = blue px
  clk : ln.clk = false
  latHigh : 2 ≤ j → j ≤ 3 → ln.lat = true
  latLow : j = 1 ∨ 4 ≤ j → ln.lat = false

/-- The lines before step i of RowScan(a) (R133, R138): OE is inactive from step 1 to step e+4 and active at e+5,
every address line written so far holds its bit of a. -/
structure RowLines (c : Config) (ln : Lines) (px : Color) (a i : Nat) : Prop where
  outputEnable : 0 < i → ln.oe = decide (i ≤ c.latchBase + 4)
  address : ∀ j, j < c.aw → j + 1 < i → getLine ln (.addr j) = addressBit a j
  column : ∀ col j, col < c.cols → j < 10 → i = c.columnBase col + j → ColumnLines ln px col j
  tail : ∀ j, j < 6 → i = c.latchBase + j → TailLines ln px j

/-- While a refresh is in progress the lines hold what its position says. -/
def State.linesFollow (s : State) : Prop :=
  match s.seq with
  | .idle => True
  | .busy a i => RowLines s.cfg s.line s.px a i

/-- What the trace leaves is what LINE and the panel hold (44_line_primitives.md R196, R199,
45_panel_observer.md R210). -/
structure State.traceExplains (s : State) : Prop where
  lines : s.line = levelsAfter s.cfg.lineInit s.trace
  panel : s.panel = panelAfter s.cfg.cols s.cfg.lineInit
    { sr := List.replicate s.cfg.cols none, latched := List.replicate s.cfg.cols none } s.trace

/-- How many events the first i steps of a RowScan leave: every step but the READs (41_gpio_protocol_sequencer.md
R133, R141). -/
def eventIndex (c : Config) (i : Nat) : Nat :=
  if i ≤ c.columnBase 0 then i else i - min c.cols ((i - c.columnBase 0 + 9) / 10)

/-- The events of a frame of `fb` before step i of RowScan(a) (R140). -/
def eventsBefore (c : Config) (fb : Memory) (a i : Nat) : List Event :=
  (List.range a).flatMap (fun r => rowTrace c r (rowColors c fb r)) ++
    (rowTrace c a (rowColors c fb a)).take (eventIndex c i)

/-- A refresh that began with the trace `before` has come to `s`'s position having rendered `s`'s framebuffer. -/
def State.rendering (s : State) (before : List Event) : Prop :=
  match s.seq with
  | .idle => False
  | .busy a i =>
    positionInRange s.cfg a i = true ∧ s.trace = before ++ eventsBefore s.cfg s.fb a i ∧
      ∀ col j, col < s.cfg.cols → 1 ≤ j → j < 10 → i = s.cfg.columnBase col + j →
        s.px = rowColors s.cfg s.fb a col

/-- In the last row, past its last READ, with `v` in PX: READ(R−1, C−1) returned `v`
(41_gpio_protocol_sequencer.md R137, 10_state.md R24). -/
structure State.holdsLastRead (s : State) (v : Color) : Prop where
  value : s.px = v
  position : ∃ i, s.cfg.columnBase (s.cfg.cols - 1) < i ∧ i < s.cfg.rowLength ∧ s.seq = .busy (s.cfg.rows - 1) i

/-- What no command of the framebuffer store changes (40_framebuffer_store.md R118): LINE, SEQ, PX, and what the
host and the panel hold. -/
structure StoreFrame (s t : State) : Prop where
  cfg : t.cfg = s.cfg
  line : t.line = s.line
  seq : t.seq = s.seq
  px : t.px = s.px
  port : t.port = s.port
  sched : t.sched = s.sched
  trace : t.trace = s.trace
  panel : t.panel = s.panel

/-- What no micro-operation changes (44_line_primitives.md R190, R193): every cell, SEQ, PX, and what the host
holds. -/
structure UopFrame (s t : State) : Prop where
  cfg : t.cfg = s.cfg
  cells : ∀ k, t.fb.read k = s.fb.read k
  seq : t.seq = s.seq
  px : t.px = s.px
  resp : t.resp = s.resp
  responses : t.responses = s.responses
  clearing : t.clearing = s.clearing
  port : t.port = s.port
  sched : t.sched = s.sched

/-- The bits of a command word that its command uses (30_encoding.md R82): two words that agree on them are the same
command (R91 (b)). -/
def usedBits : Instr → Word
  | .clear => 0xF0000000#32
  | .setPixel _ _ _ => 0xFFFFFFF7#32
  | .getPixel _ _ => 0xFFFFFFF0#32
  | .refreshOnce => 0xF0000000#32
  | .wl _ _ => 0xFFFFFFFF#32
  | .slp _ => 0xFFFFFFFF#32

/-- Two entries of RowScan of one kind: both READs of one column, both writes of one line, or delays of one length
(41_gpio_protocol_sequencer.md R134). -/
def RowStep.sameKind : RowStep → RowStep → Prop
  | .read _ c, .read _ c' => c = c'
  | .issue (.wl l _), .issue (.wl l' _) => l = l'
  | .issue (.slp n), .issue (.slp n') => n = n'
  | _, _ => False

/-- Column `c`'s value stands in stage C−1−c, for every column (45_panel_observer.md R213). -/
def rowInStages (cols : Nat) (stages : List (Option Color)) (row : Nat → Color) : Prop :=
  stages.length = cols ∧ ∀ c, c < cols → stages[cols - 1 - c]? = some (some (row c))

/-- The sequencer is the agent that moves: it is busy, and the host has no enabled step or the schedule does not
name it (60_exceptions.md R241). -/
def State.sequencerMoves (s : State) : Prop :=
  s.busy = true ∧ (s.hostReady = false ∨ s.sched.head? ≠ some .host)

/-- The host is the agent that moves: it has an enabled step, and the sequencer is idle or the schedule names the
host (60_exceptions.md R241). -/
def State.hostMoves (s : State) : Prop :=
  s.hostReady = true ∧ (s.busy = false ∨ s.sched.head? = some .host)

/-- `k` steps of the machine lead from `s` to `t`. -/
def State.runsTo (s : State) : Nat → State → Prop
  | 0, t => t = s
  | k + 1, t => ∃ m, step s = .next m ∧ m.runsTo k t

/-- The host is about to start a refresh and then waits until BUSY falls: the intended caller
(60_exceptions.md R240; premise QuietDuringRefresh of 70_reset_and_hazards.md R264). -/
structure State.startsQuietRefresh (s : State) : Prop where
  configured : s.cfg.wellFormed = true
  idle : s.seq = .idle
  noClear : s.clearing = []
  waits : s.sched = []
  command : ∃ w rest, s.port = w :: rest ∧ decodeCommand w = .ok .refreshOnce

end Sys2Proof.Machine
end

