-- ==== Sys2Proof/Certificates/Slice0/Obligations.lean ====
section
/-! DEFINITION. The statements about the model. Each docstring names the rule of spec/ it comes from. -/

open Sys2Proof Sys2Proof.Machine

/-! ## Encodings -/

/-- 30_encoding.md R81, R82, R97: decoding the word of a command gives the command back. -/
def Obligations.CommandWordsRoundTrip : Prop :=
  ∀ i : Instr, i.isCommand = true → decodeCommand (encode i) = .ok i

/-- 30_encoding.md R88, R89: decoding the word of a well-formed micro-operation gives it back. -/
def Obligations.UopWordsRoundTrip : Prop :=
  ∀ (aw : Nat) (u : Instr), u.isCommand = false → u.wellFormed aw = true → decodeUop aw (encode u) = .ok u

/-- 30_encoding.md R89, R91 (d): a micro-operation word has one meaning, and every bit of it counts. -/
def Obligations.UopDecodingIsExact : Prop :=
  ∀ (aw : Nat) (w : Word) (u : Instr), decodeUop aw w = .ok u →
    encode u = w ∧ u.wellFormed aw = true ∧ u.isCommand = false

/-- 30_encoding.md R97, by arithmetic on the word as a number. -/
def Obligations.CommandDecoderFollowsOpcode : Prop :=
  ∀ w : Word,
    (w.toNat / 2 ^ 28 = 1 → decodeCommand w = .ok .clear) ∧
    (w.toNat / 2 ^ 28 = 2 →
      decodeCommand w = .ok (.setPixel (BitVec.ofNat 12 (w.toNat / 2 ^ 16)) (BitVec.ofNat 12 (w.toNat / 2 ^ 4))
        (BitVec.ofNat 3 w.toNat))) ∧
    (w.toNat / 2 ^ 28 = 3 →
      decodeCommand w = .ok (.getPixel (BitVec.ofNat 12 (w.toNat / 2 ^ 16)) (BitVec.ofNat 12 (w.toNat / 2 ^ 4)))) ∧
    (w.toNat / 2 ^ 28 = 4 → decodeCommand w = .ok .refreshOnce) ∧
    (w.toNat / 2 ^ 28 = 0 ∨ 5 ≤ w.toNat / 2 ^ 28 →
      decodeCommand w = .error (.reservedOpcode (BitVec.ofNat 4 (w.toNat / 2 ^ 28))))

/-- 30_encoding.md R91 (b): words that agree on the bits a command uses are the same command. -/
def Obligations.UnusedBitsIgnored : Prop :=
  ∀ (w w' : Word) (i : Instr), decodeCommand w = .ok i → w' &&& usedBits i = w &&& usedBits i →
    decodeCommand w' = .ok i

/-- 95_test_vectors.md V10, V11, V12: words written out in the spec. -/
def Obligations.SpecWordsDecode : Prop :=
  decodeCommand 0x20010005#32 = .ok (.setPixel 1 0 5) ∧
  decodeCommand 0x2001001F#32 = .ok (.setPixel 1 1 7) ∧
  decodeCommand 0x1ABCDEF7#32 = .ok .clear ∧
  decodeCommand 0x3001000F#32 = .ok (.getPixel 1 0) ∧
  decodeCommand 0x4FFFFFFF#32 = .ok .refreshOnce ∧
  decodeCommand 0x50000000#32 = .error (.reservedOpcode 5) ∧
  decodeUop 5 0x40000029#32 = .ok (.wl (.addr 4) true) ∧
  decodeUop 5 0x4000000D#32 = .ok (.wl .clk true) ∧
  decodeUop 5 0x80000064#32 = .ok (.slp 100)

/-- 30_encoding.md R83: a colour code is red + 2·green + 4·blue, and composition and decomposition are inverse to
each other. -/
def Obligations.ColourCodeBits : Prop :=
  (∀ r g b : Level, (colorOf r g b).toNat = r.toNat + 2 * g.toNat + 4 * b.toNat) ∧
  (∀ r g b : Level, red (colorOf r g b) = r ∧ green (colorOf r g b) = g ∧ blue (colorOf r g b) = b) ∧
  (∀ k : Color, colorOf (red k) (green k) (blue k) = k) ∧
  ∀ k : Color, (red k = decide (k.toNat % 2 = 1)) ∧ (green k = decide (k.toNat / 2 % 2 = 1)) ∧
    (blue k = decide (k.toNat / 4 % 2 = 1))

/-- 00_scope.md R8: AW is the least n with 2^n ≥ R. -/
def Obligations.AddressWidthIsLeast : Prop :=
  ∀ rows : Nat, rows ≤ 2 ^ addressWidth rows ∧ ∀ n, rows ≤ 2 ^ n → addressWidth rows ≤ n

/-- 30_encoding.md R87, 43_row_mux_timer.md R172, R173: after the address drive of row a the lines hold the code of
a, and no other line has changed. -/
def Obligations.AddressDriveHoldsRow : Prop :=
  ∀ (c : Config) (ln : Lines) (a : Nat), c.wellFormed = true → a < c.rows →
    let ln' := levelsAfter ln (setAddrEvents c a)
    (∀ j, j < c.aw → getLine ln' (.addr j) = a.testBit j) ∧ addressOnLines c.aw ln' = a ∧
      ∀ l : Line, (∀ j, l ≠ .addr j) → getLine ln' l = getLine ln l

/-! ## The framebuffer store -/

/-- 40_framebuffer_store.md R110: while SEQ = Idle, CLEAR is one step that leaves every cell black and touches
nothing else. -/
def Obligations.ClearWhileIdle : Prop :=
  ∀ s : State, s.seq = .idle → ∃ t, exec .clear s = .next t ∧
    (∀ r c, s.cfg.inBounds r c = true → t.pixel r c = 0#3) ∧
    (∀ k, s.cfg.cellCount ≤ k → t.fb.read k = s.fb.read k) ∧
    StoreFrame s t ∧ t.clearing = s.clearing ∧ t.resp = s.resp ∧ t.responses = s.responses

/-- 40_framebuffer_store.md R111: while SEQ ≠ Idle, the first step of CLEAR writes one cell, whichever it is, and
leaves every other cell once to write. That the step which accepts the command is itself the first of the R·C is the
model's reading (log 6). -/
def Obligations.ClearWhileBusy : Prop :=
  ∀ (s : State) (a i : Nat), s.cfg.wellFormed = true → s.seq = .busy a i →
    ∃ t k, exec .clear s = .next t ∧ k < s.cfg.cellCount ∧
      (∀ j, t.fb.read j = if j = k then 0#3 else s.fb.read j) ∧
      t.clearing.Nodup ∧ (∀ j, j ∈ t.clearing ↔ j < s.cfg.cellCount ∧ j ≠ k) ∧
      StoreFrame s t ∧ t.resp = s.resp ∧ t.responses = s.responses

/-- 40_framebuffer_store.md R111: a further step of a CLEAR in progress writes one of the remaining cells and takes
it off the list. That the host's next command waits is the model's reading (log 6). -/
def Obligations.ClearContinues : Prop :=
  ∀ s : State, s.cfg.wellFormed = true → s.clearing ≠ [] → s.clearing.Nodup → s.hostMoves →
    ∃ t k, step s = .next t ∧ k ∈ s.clearing ∧
      (∀ j, t.fb.read j = if j = k then 0#3 else s.fb.read j) ∧
      t.clearing.Nodup ∧ (∀ j, j ∈ t.clearing ↔ j ∈ s.clearing ∧ j ≠ k) ∧
      t.port = s.port ∧ t.line = s.line ∧ t.seq = s.seq ∧ t.px = s.px ∧ t.trace = s.trace

/-- 40_framebuffer_store.md R111: a CLEAR in progress comes to an end, with every cell that was left to write black
and every other as it was. That it goes on cell by cell where the refresh has ended meanwhile is the model's reading
(log 6). -/
def Obligations.ClearRunsToItsEnd : Prop :=
  ∀ s : State, s.cfg.wellFormed = true → s.seq = .idle →
    ∃ t, s.runsTo s.clearing.length t ∧ t.clearing = [] ∧
      (∀ j, t.fb.read j = if j ∈ s.clearing then 0#3 else s.fb.read j) ∧
      t.seq = .idle ∧ t.port = s.port ∧ t.line = s.line ∧ t.trace = s.trace

/-- 40_framebuffer_store.md R110, R112, of a CLEAR at Idle: a second one changes nothing but the time passed and the
counter of draws, which are the model's (44_line_primitives.md R200; log 8), and every valid cell then answers black. -/
def Obligations.ClearIsIdempotent : Prop :=
  ∀ s : State, s.seq = .idle → s.fb.wf = true → ∃ t u, exec .clear s = .next t ∧ exec .clear t = .next u ∧
    u = { t with time := u.time, draws := u.draws } ∧
    ∀ row col : Coord, s.cfg.inBounds row.toNat col.toNat = true →
      ∃ v, exec (.getPixel row col) t = .next v ∧ v.resp = some 0#3

/-- 40_framebuffer_store.md R113: in bounds, SET_PIXEL writes its cell and no other, and touches nothing else. -/
def Obligations.SetPixelWritesItsCell : Prop :=
  ∀ (s : State) (row col : Coord) (k : Color), s.cfg.inBounds row.toNat col.toNat = true →
    ∃ t, exec (.setPixel row col k) s = .next t ∧
      (∀ r c, s.cfg.inBounds r c = true →
        t.pixel r c = if r = row.toNat ∧ c = col.toNat then k else s.pixel r c) ∧
      (∀ j, j ≠ s.cfg.cellIndex row.toNat col.toNat → t.fb.read j = s.fb.read j) ∧
      StoreFrame s t ∧ t.clearing = s.clearing ∧ t.resp = s.resp ∧ t.responses = s.responses

/-- 40_framebuffer_store.md R114: out of bounds, SET_PIXEL completes and changes no cell. -/
def Obligations.SetPixelOutOfBoundsIgnored : Prop :=
  ∀ (s : State) (row col : Coord) (k : Color), s.cfg.rows ≤ row.toNat ∨ s.cfg.cols ≤ col.toNat →
    ∃ t, exec (.setPixel row col k) s = .next t ∧ t.fb = s.fb ∧
      StoreFrame s t ∧ t.clearing = s.clearing ∧ t.resp = s.resp ∧ t.responses = s.responses

/-- 40_framebuffer_store.md R116: in bounds, GET_PIXEL answers the cell and changes no state. -/
def Obligations.GetPixelAnswersItsCell : Prop :=
  ∀ (s : State) (row col : Coord), s.cfg.inBounds row.toNat col.toNat = true →
    ∃ t, exec (.getPixel row col) s = .next t ∧ t.resp = some (s.pixel row.toNat col.toNat) ∧
      t.responses = s.responses ++ [s.pixel row.toNat col.toNat] ∧
      (∀ k, t.fb.read k = s.fb.read k) ∧ StoreFrame s t ∧ t.clearing = s.clearing

/-- 40_framebuffer_store.md R117: out of bounds, GET_PIXEL completes, its response is the free value of this draw
(log 7), it changes no state, and the next draw is another one. -/
def Obligations.GetPixelOutOfBoundsCompletes : Prop :=
  ∀ (s : State) (row col : Coord), s.cfg.rows ≤ row.toNat ∨ s.cfg.cols ≤ col.toNat →
    ∃ t, exec (.getPixel row col) s = .next t ∧ t.resp = some (Config.outOfBoundsResponse s.draws) ∧
      t.responses = s.responses ++ [Config.outOfBoundsResponse s.draws] ∧ s.draws < t.draws ∧
      (∀ k, t.fb.read k = s.fb.read k) ∧ StoreFrame s t ∧ t.clearing = s.clearing

/-- 40_framebuffer_store.md R115. -/
def Obligations.SetThenGetReturnsColour : Prop :=
  ∀ (s : State) (row col : Coord) (k : Color), s.cfg.inBounds row.toNat col.toNat = true →
    ∃ t u, exec (.setPixel row col k) s = .next t ∧ exec (.getPixel row col) t = .next u ∧ u.resp = some k

/-! ## REFRESH_ONCE and the micro-operations -/

/-- 41_gpio_protocol_sequencer.md R130: REFRESH_ONCE at Idle sets SEQ to Busy(0, 0), hence BUSY, and nothing else;
FB is never written. -/
def Obligations.RefreshAcceptedAtIdle : Prop :=
  ∀ s : State, s.seq = .idle → ∃ t, exec .refreshOnce s = .next t ∧ t.seq = .busy 0 0 ∧ t.busy = true ∧
    (∀ k, t.fb.read k = s.fb.read k) ∧ t.cfg = s.cfg ∧ t.line = s.line ∧ t.px = s.px ∧ t.trace = s.trace ∧
    t.panel = s.panel ∧ t.clearing = s.clearing ∧ t.port = s.port ∧ t.sched = s.sched ∧ t.resp = s.resp ∧
    t.responses = s.responses

/-- 60_exceptions.md R238: REFRESH_ONCE while SEQ ≠ Idle is held and changes nothing (log 12). -/
def Obligations.RefreshHeldWhileBusy : Prop :=
  ∀ (s : State) (a i : Nat), s.seq = .busy a i → exec .refreshOnce s = .next s

/-- 60_exceptions.md R238: a held REFRESH_ONCE stays on the port, with the words behind it, while the sequencer
moves on, and is accepted when SEQ = Idle (the words on the port are the model's, log 5). -/
def Obligations.HeldRefreshWaitsForIdle : Prop :=
  ∀ (s : State) (w : Word) (rest : List Word), s.Inv → s.clearing = [] → s.port = w :: rest →
    decodeCommand w = .ok .refreshOnce →
    (∀ a i, s.seq = .busy a i →
      ∃ t, step s = .next t ∧ t.port = w :: rest ∧ t.seq = advanceSeq s.cfg a i ∧ t.fb = s.fb) ∧
    (s.seq = .idle → ∃ t, step s = .next t ∧ t.port = rest ∧ t.seq = .busy 0 0)

/-- 44_line_primitives.md R190: WL sets its line and no other, appends its event, and touches nothing else but the
panel that watches. -/
def Obligations.WlSetsItsLine : Prop :=
  ∀ (s : State) (l : Line) (v : Level), l.present s.cfg.aw = true → ∃ t, exec (.wl l v) s = .next t ∧
    (∀ l' : Line, getLine t.line l' = if l' = l then v else getLine s.line l') ∧
    t.trace = s.trace ++ [.write l v] ∧ t.panel = s.panel.onWrite s.cfg.cols s.line l v ∧ UopFrame s t

/-- 30_encoding.md R91 (d): an address line that the geometry does not have is no operand of WL. The refusal is the
model's choice (log 16). -/
def Obligations.WlOnAbsentLineRefused : Prop :=
  ∀ (s : State) (l : Line) (v : Level), l.present s.cfg.aw = false →
    exec (.wl l v) s = .refused (.absentLine l)

/-- 44_line_primitives.md R192, 45_panel_observer.md R212: a write of the level a line already has changes no line
and moves the panel not at all, and still leaves its event. -/
def Obligations.RedundantWriteIsSilent : Prop :=
  ∀ (s : State) (l : Line) (v : Level), l.present s.cfg.aw = true → getLine s.line l = v →
    ∃ t, exec (.wl l v) s = .next t ∧ t.line = s.line ∧ t.panel = s.panel ∧ t.trace = s.trace ++ [.write l v]

/-- 44_line_primitives.md R193: SLP appends its event, time grows by at least n, and no line, cell or register
changes. -/
def Obligations.SlpWaitsAtLeast : Prop :=
  ∀ (s : State) (n : Nat), ∃ t, exec (.slp n) s = .next t ∧ t.trace = s.trace ++ [.delay n] ∧
    s.time + n ≤ t.time ∧ t.line = s.line ∧ t.panel = s.panel ∧ UopFrame s t

/-! ## The step -/

/-- 60_exceptions.md R240, R241: when it is the host's turn and the port holds a command that is accepted, the step
is that command's meaning, on the state with the word taken off the port, RESP dropped and a contested turn used
up. The queue of words and the schedule are the model's (log 4, log 5). -/
def Obligations.StepRunsPresentedCommand : Prop :=
  ∀ (s : State) (w : Word) (rest : List Word) (i : Instr), s.cfg.wellFormed = true → s.clearing = [] →
    s.port = w :: rest → decodeCommand w = .ok i → s.accepts i = true → s.hostMoves →
    step s = exec i { s with resp := none, port := rest, sched := if s.busy then s.sched.tail else s.sched }

/-- 30_encoding.md R91 (a), 60_exceptions.md R236: a reserved word, when it is the host's turn, is refused; the
refusal ends the run (log 13). -/
def Obligations.StepRefusesReservedWord : Prop :=
  ∀ (s : State) (w : Word) (rest : List Word) (e : DecodeError), s.cfg.wellFormed = true → s.clearing = [] →
    s.port = w :: rest → decodeCommand w = .error e → s.hostMoves → step s = .refused (.reservedCommand w)

/-- 41_gpio_protocol_sequencer.md R135: when it is the sequencer's turn and its entry is a micro-operation, the step
is that instruction's meaning and then the advance. Whose turn it is, the model's schedule says (log 4). -/
def Obligations.StepRunsSequencerEntry : Prop :=
  ∀ (s : State) (a i : Nat) (u : Instr) (t : State), s.cfg.wellFormed = true → s.seq = .busy a i →
    positionInRange s.cfg a i = true → s.sequencerMoves → rowStep s.cfg s.px a i = .issue u →
    exec u { s with resp := none, sched := if s.hostReady then s.sched.tail else s.sched } = .next t →
    step s = .next { t with seq := advanceSeq t.cfg a i }

/-- 42_row_reader_and_bit_serializer.md R150: READ(a, c) loads PX from its cell, leaves no event and touches no line
and no cell. -/
def Obligations.StepReadsCell : Prop :=
  ∀ (s : State) (a c : Nat), s.cfg.wellFormed = true → s.seq = .busy a (s.cfg.columnBase c) → a < s.cfg.rows →
    c < s.cfg.cols → s.sequencerMoves →
    ∃ t, step s = .next t ∧ t.px = s.pixel a c ∧ t.seq = .busy a (s.cfg.columnBase c + 1) ∧
      t.trace = s.trace ∧ t.line = s.line ∧ t.panel = s.panel ∧ t.cfg = s.cfg ∧ t.clearing = s.clearing ∧
      t.port = s.port ∧ t.responses = s.responses ∧ ∀ k, t.fb.read k = s.fb.read k

/-- 41_gpio_protocol_sequencer.md R133: the entry at every position of RowScan(a). -/
def Obligations.RowScanEntries : Prop :=
  ∀ (cfg : Config) (px : Color) (a : Nat),
    rowStep cfg px a 0 = .issue (.wl .oe true) ∧
    (∀ j, j < cfg.aw → rowStep cfg px a (1 + j) = .issue (.wl (.addr j) (a.testBit j))) ∧
    (∀ c b, c < cfg.cols → b = 1 + cfg.aw + 10 * c →
      rowStep cfg px a (b + 0) = .read a c ∧
      rowStep cfg px a (b + 1) = .issue (.wl .r1 (px.getLsbD 0)) ∧
      rowStep cfg px a (b + 2) = .issue (.wl .g1 (px.getLsbD 1)) ∧
      rowStep cfg px a (b + 3) = .issue (.wl .b1 (px.getLsbD 2)) ∧
      rowStep cfg px a (b + 4) = .issue (.wl .clk false) ∧
      rowStep cfg px a (b + 5) = .issue (.slp cfg.tPre) ∧
      rowStep cfg px a (b + 6) = .issue (.wl .clk true) ∧
      rowStep cfg px a (b + 7) = .issue (.slp cfg.tHigh) ∧
      rowStep cfg px a (b + 8) = .issue (.wl .clk false) ∧
      rowStep cfg px a (b + 9) = .issue (.slp cfg.tLow)) ∧
    (∀ e, e = 1 + cfg.aw + 10 * cfg.cols →
      rowStep cfg px a (e + 0) = .issue (.wl .lat false) ∧
      rowStep cfg px a (e + 1) = .issue (.wl .lat true) ∧
      rowStep cfg px a (e + 2) = .issue (.slp cfg.tLat) ∧
      rowStep cfg px a (e + 3) = .issue (.wl .lat false) ∧
      rowStep cfg px a (e + 4) = .issue (.wl .oe false) ∧
      rowStep cfg px a (e + 5) = .issue (.slp cfg.tDwell) ∧
      cfg.rowLength = e + 6)

/-- 41_gpio_protocol_sequencer.md R134: neither the data nor the row address changes which entry stands where. -/
def Obligations.RowScanIgnoresData : Prop :=
  ∀ (cfg : Config) (px px' : Color) (a a' i : Nat), i < cfg.rowLength →
    (rowStep cfg px a i).sameKind (rowStep cfg px' a' i)

/-- 30_encoding.md R89, R91 (d), (e): every micro-operation the sequencer issues has a legal word, and none names
lane 2. -/
def Obligations.SequencerIssuesLegalWords : Prop :=
  ∀ (cfg : Config) (px : Color) (a i : Nat) (u : Instr), cfg.wellFormed = true → i < cfg.rowLength →
    cfg.tPre < 2 ^ 30 → cfg.tHigh < 2 ^ 30 → cfg.tLow < 2 ^ 30 → cfg.tLat < 2 ^ 30 → cfg.tDwell < 2 ^ 30 →
    rowStep cfg px a i = .issue u →
    decodeUop cfg.aw (encode u) = .ok u ∧ ∀ v, u ≠ .wl .r2 v ∧ u ≠ .wl .g2 v ∧ u ≠ .wl .b2 v

/-- 41_gpio_protocol_sequencer.md R135, R136: whenever it is the sequencer's turn its step completes and its position
advances as the rule says. -/
def Obligations.SequencerAlwaysAdvances : Prop :=
  ∀ (s : State) (a i : Nat), s.Inv → s.seq = .busy a i → s.sequencerMoves → ∃ t, step s = .next t ∧
    t.seq = (if i + 1 < s.cfg.aw + 10 * s.cfg.cols + 7 then .busy a (i + 1)
      else if a + 1 < s.cfg.rows then .busy (a + 1) 0 else .idle) ∧ t.port = s.port ∧ t.clearing = s.clearing

/-- 70_reset_and_hazards.md R263: a misconfigured system has no run; the refusal is the model's form of it (log 14). -/
def Obligations.MisconfiguredNotLaunched : Prop :=
  ∀ s : State, s.cfg.rows = 0 ∨ 4096 < s.cfg.rows ∨ s.cfg.cols = 0 ∨ 4096 < s.cfg.cols →
    step s = .refused .misconfigured

/-- 41_gpio_protocol_sequencer.md R135, 60_exceptions.md R243: once a run is finished no agent has a step; RESP is
not held (10_state.md R35). The model's step then changes nothing else (log 17). -/
def Obligations.FinishedRunRests : Prop :=
  ∀ s : State, s.cfg.wellFormed = true → s.finished = true → step s = .next { s with resp := none }

/-! ## What every step keeps -/

/-- 10_state.md R29: the values of reset that the spec gives, for all parameters. -/
def Obligations.ResetValues : Prop :=
  ∀ c : Config, (∀ row col, (State.resetWith c).pixel row col = 0#3) ∧ (State.resetWith c).seq = .idle ∧
    (State.resetWith c).busy = false ∧ (∀ l, getLine (State.resetWith c).line l = getLine c.lineInit l) ∧
    (State.resetWith c).trace = [] ∧ (State.resetWith c).time = 0

/-- Every launch state (70_reset_and_hazards.md R264) meets the invariants that the steps keep, and reset is one. -/
def Obligations.LaunchMeetsInvariants : Prop :=
  (∀ c : Config, c.wellFormed = true → (State.resetWith c).Fresh) ∧
  ∀ s : State, s.Fresh → s.Inv ∧ s.linesFollow ∧ s.traceExplains

/-- 10_state.md R22, R23, R26, 40_framebuffer_store.md R111, 45_panel_observer.md R211: every step keeps the
invariant of the state. -/
def Obligations.StepKeepsInvariant : Prop :=
  ∀ s t : State, s.Inv → step s = .next t → t.Inv

/-- 41_gpio_protocol_sequencer.md R133, R138: at every position the lines hold what RowScan has driven. -/
def Obligations.StepKeepsLinesFollow : Prop :=
  ∀ s t : State, s.linesFollow → step s = .next t → t.linesFollow

/-- 44_line_primitives.md R196, R199, 45_panel_observer.md R210: LINE and the panel are what the trace leaves. -/
def Obligations.StepKeepsTraceExplains : Prop :=
  ∀ s t : State, s.traceExplains → step s = .next t → t.traceExplains

/-- 41_gpio_protocol_sequencer.md R138: no line other than OE changes while OE is active. -/
def Obligations.NoLineMovesWhileEnabled : Prop :=
  ∀ s t : State, s.linesFollow → getLine s.line .oe = false → step s = .next t →
    ∀ l : Line, l ≠ .oe → getLine t.line l = getLine s.line l

/-- 45_panel_observer.md R217 (b): whenever the panel's registers or the address lines change, OE is inactive. -/
def Obligations.PanelMovesOnlyInTheDark : Prop :=
  ∀ s t : State, s.linesFollow → step s = .next t → (t.panel ≠ s.panel ∨ t.line.addr ≠ s.line.addr) →
    getLine s.line .oe = true ∧ getLine t.line .oe = true

/-- 10_state.md R28, R34, 60_exceptions.md R242: no step of the host touches a line, the trace, the panel, PX or a
refresh in progress. -/
def Obligations.HostNeverDrivesLines : Prop :=
  ∀ s t : State, s.hostMoves → step s = .next t →
    t.line = s.line ∧ t.trace = s.trace ∧ t.panel = s.panel ∧ t.px = s.px ∧ (s.busy = true → t.seq = s.seq)

/-- 10_state.md R22, R34: no step of the sequencer writes FB, takes a command or answers one. -/
def Obligations.SequencerOnlyReadsFramebuffer : Prop :=
  ∀ s t : State, s.sequencerMoves → step s = .next t →
    (∀ k, t.fb.read k = s.fb.read k) ∧ t.clearing = s.clearing ∧ t.port = s.port ∧ t.resp = none ∧
      t.responses = s.responses

/-- 10_state.md R27, R30: no step drives lane 2 or changes a parameter. -/
def Obligations.LaneTwoAndParametersFixed : Prop :=
  ∀ s t : State, step s = .next t → getLine t.line .r2 = getLine s.line .r2 ∧
    getLine t.line .g2 = getLine s.line .g2 ∧ getLine t.line .b2 = getLine s.line .b2 ∧ t.cfg = s.cfg

/-- 44_line_primitives.md R191, R196, R200: a step appends at most one event and changes at most the line that event
writes, nothing removes an event, and time never runs backwards. -/
def Obligations.TraceOnlyGrows : Prop :=
  ∀ s t : State, step s = .next t → s.time ≤ t.time ∧
    ((t.trace = s.trace ∧ t.line = s.line) ∨
      ∃ e, t.trace = s.trace ++ [e] ∧ t.line = Event.levels s.line e ∧ s.time + e.requested ≤ t.time)

/-- 10_state.md R25, 41_gpio_protocol_sequencer.md R135, R136: BUSY rises only by the acceptance of REFRESH_ONCE and
falls only by the last step of the last row. -/
def Obligations.BusyRisesAndFalls : Prop :=
  ∀ s t : State, step s = .next t →
    (s.busy = false → t.busy = true →
      t.seq = .busy 0 0 ∧ ∃ w rest, s.port = w :: rest ∧ decodeCommand w = .ok .refreshOnce ∧ t.port = rest) ∧
    (s.busy = true → t.busy = false → s.seq = .busy (s.cfg.rows - 1) (s.cfg.rowLength - 1))

/-- 41_gpio_protocol_sequencer.md R137: the lines when BUSY falls, also with cells changed during the refresh; and
what READ(R−1, C−1) returned stays in PX from that step on until BUSY has fallen. -/
def Obligations.LinesWhenBusyFalls : Prop :=
  (∀ s t : State, s.linesFollow → s.busy = true → step s = .next t → t.busy = false →
    getLine t.line .oe = false ∧ getLine t.line .clk = false ∧ getLine t.line .lat = false ∧
    (∀ j, j < s.cfg.aw → getLine t.line (.addr j) = (s.cfg.rows - 1).testBit j) ∧
    getLine t.line .r1 = red t.px ∧ getLine t.line .g1 = green t.px ∧ getLine t.line .b1 = blue t.px ∧
    t.px = s.px) ∧
  (∀ s t : State, s.seq = .busy (s.cfg.rows - 1) (s.cfg.columnBase (s.cfg.cols - 1)) → s.sequencerMoves →
    step s = .next t → t.holdsLastRead (s.pixel (s.cfg.rows - 1) (s.cfg.cols - 1))) ∧
  ∀ (s t : State) (v : Color), s.holdsLastRead v → step s = .next t →
    t.holdsLastRead v ∨ (t.busy = false ∧ t.px = v)

/-- 20_memory.md R63, 41_gpio_protocol_sequencer.md R140: a step that changes no cell keeps a refresh rendering the
framebuffer it began with, until the step that ends it leaves the whole frame in the trace. -/
def Obligations.StepKeepsRendering : Prop :=
  ∀ (s t : State) (before : List Event), s.rendering before → step s = .next t → t.fb = s.fb →
    t.rendering before ∨ (t.seq = .idle ∧ t.trace = before ++ frameTrace s.cfg s.fb)

/-! ## The closed form of the trace -/

/-- 41_gpio_protocol_sequencer.md R139, R141: what one row's events are, counted, and the delay they ask for. -/
def Obligations.RowTraceCounts : Prop :=
  ∀ (c : Config) (a : Nat) (row : Nat → Color),
    (rowTrace c a row).length = c.aw + 9 * c.cols + 7 ∧
    requestedDelay (rowTrace c a row) = c.cols * (c.tPre + c.tHigh + c.tLow) + c.tLat + c.tDwell ∧
    (rowTrace c a row).count (.write .oe true) = 1 ∧ (rowTrace c a row).count (.write .oe false) = 1 ∧
    (rowTrace c a row).count (.write .lat true) = 1 ∧ (rowTrace c a row).count (.write .clk true) = c.cols

/-- 41_gpio_protocol_sequencer.md R139, R141, 70_reset_and_hazards.md R275: the same of a whole frame. -/
def Obligations.FrameTraceCounts : Prop :=
  ∀ (c : Config) (fb : Memory),
    (frameTrace c fb).length = c.rows * (c.aw + 9 * c.cols + 7) ∧
    requestedDelay (frameTrace c fb) =
      c.rows * (c.cols * (c.tPre + c.tHigh + c.tLow) + c.tLat + c.tDwell) ∧
    (frameTrace c fb).count (.write .oe true) = c.rows ∧ (frameTrace c fb).count (.write .oe false) = c.rows ∧
    (frameTrace c fb).count (.write .lat true) = c.rows ∧
    (frameTrace c fb).count (.write .clk true) = c.rows * c.cols

/-- 42_row_reader_and_bit_serializer.md R156, 43_row_mux_timer.md R174: whatever the lines were, one row has exactly
C rising edges of CLK and one of LAT. -/
def Obligations.RisingEdgesPerRow : Prop :=
  ∀ (c : Config) (ln : Lines) (a : Nat) (row : Nat → Color),
    (waveform ln (rowTrace c a row)).count (.write .clk true) = c.cols ∧
    (waveform ln (rowTrace c a row)).count (.write .lat true) = 1

/-- 44_line_primitives.md R199, 45_panel_observer.md R212: the waveform leaves the same levels and moves the panel in
the same way as the trace. -/
def Obligations.WaveformShowsTheSame : Prop :=
  ∀ (cols : Nat) (ln : Lines) (p : Panel) (es : List Event),
    levelsAfter ln (waveform ln es) = levelsAfter ln es ∧
    panelAfter cols ln p (waveform ln es) = panelAfter cols ln p es

/-- 45_panel_observer.md R213, R214: whatever the lines and the panel held, after one row's events column c stands in
stage C−1−c of the shift register and of the output stage, and nothing of an earlier row remains. -/
def Obligations.PanelHoldsRowAfterRow : Prop :=
  ∀ (c : Config) (ln : Lines) (p : Panel) (a : Nat) (row : Nat → Color), 0 < c.cols →
    rowInStages c.cols (panelAfter c.cols ln p (rowTrace c a row)).sr row ∧
    rowInStages c.cols (panelAfter c.cols ln p (rowTrace c a row)).latched row

/-! ## A whole refresh -/

/-- 41_gpio_protocol_sequencer.md R132, R135, R140: a refresh that nothing disturbs takes 1 + R·L steps, appends
FrameTrace(FB) to the trace, and leaves FB, the parameters and the host's further commands as they were. "Nothing
disturbs" is the schedule of the intended caller, which the model takes where its own is used up (log 4). -/
def Obligations.RefreshRendersFrame : Prop :=
  ∀ s : State, s.startsQuietRefresh → ∃ t, s.runsTo (1 + s.cfg.rows * s.cfg.rowLength) t ∧ t.seq = .idle ∧
    t.trace = s.trace ++ frameTrace s.cfg s.fb ∧ t.fb = s.fb ∧ t.cfg = s.cfg ∧ t.port = s.port.tail

/-- 41_gpio_protocol_sequencer.md R137: what that refresh leaves on the lines and in PX. The schedule is the intended
caller's (log 4). -/
def Obligations.RefreshLeavesLines : Prop :=
  ∀ s : State, s.startsQuietRefresh → ∃ t, s.runsTo (1 + s.cfg.rows * s.cfg.rowLength) t ∧
    getLine t.line .oe = false ∧ getLine t.line .clk = false ∧ getLine t.line .lat = false ∧
    (∀ j, j < s.cfg.aw → getLine t.line (.addr j) = (s.cfg.rows - 1).testBit j) ∧
    t.px = s.pixel (s.cfg.rows - 1) (s.cfg.cols - 1) ∧
    getLine t.line .r1 = red t.px ∧ getLine t.line .g1 = green t.px ∧ getLine t.line .b1 = blue t.px ∧
    getLine t.line .r2 = getLine s.line .r2 ∧ getLine t.line .g2 = getLine s.line .g2 ∧
    getLine t.line .b2 = getLine s.line .b2

/-- 45_panel_observer.md R217 (a), 43_row_mux_timer.md R178: in the whole enable window of every row of that refresh,
before the dwell and after it up to step 0 of the next RowScan or the end, the panel shows the row, at its address, as
the framebuffer has it. The schedule is the intended caller's (log 4), the observer keeps the spec's G2 (log 18). -/
def Obligations.EveryRowIsShown : Prop :=
  ∀ (s : State) (a : Nat), s.startsQuietRefresh → a < s.cfg.rows →
    ∃ t u stages, s.runsTo (1 + a * s.cfg.rowLength + (s.cfg.rowLength - 1)) t ∧ step t = .next u ∧
      t.seq = .busy a (s.cfg.rowLength - 1) ∧ u.seq = (if a + 1 < s.cfg.rows then .busy (a + 1) 0 else .idle) ∧
      t.panel.illuminated t.cfg.aw t.line = some (a, stages) ∧
      u.panel.illuminated u.cfg.aw u.line = some (a, stages) ∧
      rowInStages s.cfg.cols stages (fun c => s.pixel a c)

/-- 45_panel_observer.md R217 (c): when BUSY falls the panel holds and shows the last row. The schedule is the intended
caller's (log 4), the observer keeps the spec's G2 (log 18). -/
def Obligations.RefreshLeavesLastRowShown : Prop :=
  ∀ s : State, s.startsQuietRefresh → ∃ t stages, s.runsTo (1 + s.cfg.rows * s.cfg.rowLength) t ∧
    t.busy = false ∧ t.panel.illuminated t.cfg.aw t.line = some (s.cfg.rows - 1, stages) ∧
    rowInStages s.cfg.cols stages (fun c => s.pixel (s.cfg.rows - 1) c) ∧
    rowInStages s.cfg.cols t.panel.sr (fun c => s.pixel (s.cfg.rows - 1) c)

/-- 44_line_primitives.md R201, 70_reset_and_hazards.md R275: that refresh lasts at least the delays it asks for. The
schedule is the intended caller's (log 4), time is kept with free durations (log 8). -/
def Obligations.RefreshLastsAtLeast : Prop :=
  ∀ s : State, s.startsQuietRefresh → ∃ t, s.runsTo (1 + s.cfg.rows * s.cfg.rowLength) t ∧
    s.time + s.cfg.rows * (s.cfg.cols * (s.cfg.tPre + s.cfg.tHigh + s.cfg.tLow) + s.cfg.tLat + s.cfg.tDwell) ≤
      t.time
end

