-- ==== Sys2Proof/Laws/Geometry.lean ====
section
/-! SUPPORT. The arithmetic of the geometry: what a right configuration says, and that a cell's linear index names
the cell (20_memory.md R51). -/

namespace Sys2Proof

theorem Config.wellFormed_iff (c : Config) :
    c.wellFormed = true ↔ 1 ≤ c.rows ∧ c.rows ≤ 4096 ∧ 1 ≤ c.cols ∧ c.cols ≤ 4096 ∧
      c.lineInit.addr.toNat < 2 ^ c.aw := by
  simp [Config.wellFormed, and_assoc]

theorem Config.inBounds_iff (c : Config) (row col : Nat) :
    c.inBounds row col = true ↔ row < c.rows ∧ col < c.cols := by
  simp [Config.inBounds]

/-- No more address lines than the identifiers have room for (30_encoding.md R88). -/
theorem addressWidth_le_twelve {rows : Nat} (h : rows ≤ 4096) : addressWidth rows ≤ 12 := by
  unfold addressWidth
  split
  · omega
  · have : Nat.log2 (rows - 1) < 12 := (Nat.log2_lt (by omega)).2 (by omega)
    omega

theorem Config.aw_le_twelve {c : Config} (h : c.wellFormed = true) : c.aw ≤ 12 :=
  addressWidth_le_twelve ((Config.wellFormed_iff c).1 h).2.1

/-- A cell in bounds has an index below R·C. -/
theorem Config.cellIndex_lt {c : Config} {row col : Nat} (h : c.inBounds row col = true) :
    c.cellIndex row col < c.cellCount := by
  obtain ⟨hr, hc⟩ := (c.inBounds_iff row col).1 h
  unfold Config.cellIndex Config.cellCount
  calc row * c.cols + col < row * c.cols + c.cols := by omega
    _ = (row + 1) * c.cols := by ring
    _ ≤ c.rows * c.cols := Nat.mul_le_mul_right _ hr

/-- Two cells in bounds with one index are one cell. -/
theorem Config.cellIndex_inj {c : Config} {r k r' k' : Nat} (hk : k < c.cols) (hk' : k' < c.cols) :
    c.cellIndex r k = c.cellIndex r' k' ↔ r = r' ∧ k = k' := by
  unfold Config.cellIndex
  constructor
  · intro h
    have h1 := congrArg (· % c.cols) h
    have h2 := congrArg (· / c.cols) h
    have hpos : 0 < c.cols := by omega
    simp only [Nat.mul_comm _ c.cols, Nat.mul_add_mod, Nat.mod_eq_of_lt hk,
      Nat.mod_eq_of_lt hk', Nat.mul_add_div hpos, Nat.div_eq_of_lt hk, Nat.div_eq_of_lt hk'] at h1 h2
    exact ⟨by omega, h1⟩
  · rintro ⟨rfl, rfl⟩; rfl

theorem Config.rowLength_eq (c : Config) : c.rowLength = c.latchBase + 6 := by
  unfold Config.rowLength Config.latchBase; omega

end Sys2Proof
end

