-- ==== Sys2Proof/Laws/Memory.lean ====
section
/-! SUPPORT. The laws of the framebuffer's memory (20_memory.md R52, R53): read after write, and every operation
keeps the canonical form. -/

namespace Sys2Proof.Machine

@[simp] theorem Memory.read_nil (k : Nat) : Memory.read [] k = 0#3 := rfl

theorem Memory.read_append (m n : Memory) (k : Nat) :
    Memory.read (m ++ n) k = if k ∈ m.map Prod.fst then Memory.read m k else Memory.read n k := by
  induction m with
  | nil => simp
  | cons e m ih =>
    obtain ⟨a, v⟩ := e
    by_cases h : a = k
    · simp [Memory.read, h]
    · simp [Memory.read, h, ih, Ne.symm h]

theorem Memory.read_eq_zero_of_not_mem (m : Memory) (k : Nat) (h : k ∉ m.map Prod.fst) :
    Memory.read m k = 0#3 := by
  have := Memory.read_append m [] k
  simpa [h] using this

theorem Memory.read_filter (m : Memory) (p : Nat → Bool) (k : Nat) :
    Memory.read (m.filter fun e => p e.1) k = if p k then Memory.read m k else 0#3 := by
  induction m with
  | nil => simp
  | cons e m ih =>
    obtain ⟨a, v⟩ := e
    by_cases ha : p a <;> by_cases hk : a = k
    · subst hk; simp [ha, Memory.read]
    · simp [ha, Memory.read, hk, ih]
    · subst hk; simp [ha, ih]
    · simp [ha, Memory.read, hk, ih]

/-- A read after a write gives the value written there and what stood before everywhere else (R52, R53). -/
theorem Memory.read_write (m : Memory) (k j : Nat) (v : Color) :
    (m.write k v).read j = if j = k then v else m.read j := by
  have hlt := Memory.read_filter m (fun a => decide (a < k)) j
  have hgt := Memory.read_filter m (fun a => decide (k < a)) j
  unfold Memory.write
  rw [List.append_assoc, Memory.read_append]
  rcases Nat.lt_trichotomy j k with h | h | h
  · by_cases hm : j ∈ (m.filter fun e => decide (e.1 < k)).map Prod.fst
    · rw [if_pos hm, hlt]; simp [h, Nat.ne_of_lt h]
    · have h0 := Memory.read_eq_zero_of_not_mem _ _ hm
      rw [hlt] at h0
      have hj : m.read j = 0#3 := by simpa [h] using h0
      have hn : j ∉ (if v = 0#3 then ([] : Memory) else [(k, v)]).map Prod.fst := by
        split <;> simp [Nat.ne_of_lt h]
      rw [if_neg hm, Memory.read_append, if_neg hn, hgt]
      simp [Nat.not_lt_of_gt h, Nat.ne_of_lt h, hj]
  · subst h
    have hm : j ∉ (m.filter fun e => decide (e.1 < j)).map Prod.fst := by simp
    rw [if_neg hm, Memory.read_append]
    by_cases hv : v = 0#3
    · simp only [hv, if_true]; simp only [List.map_nil, List.not_mem_nil, if_false]; rw [hgt]; simp
    · simp [hv, Memory.read]
  · have hm : j ∉ (m.filter fun e => decide (e.1 < k)).map Prod.fst := by simp; omega
    rw [if_neg hm, Memory.read_append]
    have hne : j ≠ k := by omega
    have : j ∉ (if v = 0#3 then ([] : Memory) else [(k, v)]).map Prod.fst := by split <;> simp [hne]
    rw [if_neg this, hgt]; simp [h, hne]

@[simp] theorem Memory.read_write_same (m : Memory) (k : Nat) (v : Color) : (m.write k v).read k = v := by
  simp [Memory.read_write]

theorem Memory.read_write_of_ne (m : Memory) {k j : Nat} (v : Color) (h : j ≠ k) :
    (m.write k v).read j = m.read j := by
  simp [Memory.read_write, h]

/-- The canonical form as a pairwise order and a condition on each entry. -/
theorem Memory.wf_iff (m : Memory) :
    m.wf = true ↔ m.Pairwise (fun e f => e.1 < f.1) ∧ ∀ e ∈ m, e.2 ≠ 0#3 := by
  induction m with
  | nil => simp [Memory.wf]
  | cons e m ih =>
    cases m with
    | nil => simp [Memory.wf]
    | cons f m =>
      simp only [Memory.wf, Bool.and_eq_true, bne_iff_ne, decide_eq_true_eq, ih]
      constructor
      · rintro ⟨⟨hv, hlt⟩, hp, hz⟩
        refine ⟨List.pairwise_cons.2 ⟨?_, hp⟩, ?_⟩
        · intro g hg
          rcases List.mem_cons.1 hg with rfl | hg
          · exact hlt
          · exact Nat.lt_trans hlt ((List.pairwise_cons.1 hp).1 g hg)
        · intro g hg
          rcases List.mem_cons.1 hg with rfl | hg
          · exact hv
          · exact hz g hg
      · rintro ⟨hp, hz⟩
        obtain ⟨h1, h2⟩ := List.pairwise_cons.1 hp
        exact ⟨⟨hz e (by simp), h1 f (by simp)⟩, h2, fun g hg => hz g (List.mem_cons_of_mem _ hg)⟩

/-- A write keeps the canonical form. -/
theorem Memory.write_wf {m : Memory} (h : m.wf = true) (k : Nat) (v : Color) : (m.write k v).wf = true := by
  rw [Memory.wf_iff] at h ⊢
  obtain ⟨hp, hz⟩ := h
  refine ⟨?_, ?_⟩
  · unfold Memory.write
    rw [List.pairwise_append, List.pairwise_append]
    refine ⟨⟨hp.filter _, by split <;> simp, ?_⟩, hp.filter _, ?_⟩
    · intro a ha b hb
      split at hb <;> simp at hb ha
      subst hb; exact ha.2
    · intro a ha b hb
      simp only [List.mem_filter, decide_eq_true_eq] at hb
      rcases List.mem_append.1 ha with ha | ha
      · simp at ha; omega
      · split at ha <;> simp at ha
        subst ha; exact hb.2
  · intro e he
    unfold Memory.write at he
    simp only [List.mem_append, List.mem_filter] at he
    rcases he with (he | he) | he
    · exact hz e he.1
    · split at he <;> simp at he
      subst he; assumption
    · exact hz e he.1

/-- A write inside [0, n) keeps every entry inside [0, n). -/
theorem Memory.write_inside {m : Memory} {n k : Nat} (h : ∀ e ∈ m, e.1 < n) (hk : k < n) (v : Color) :
    ∀ e ∈ m.write k v, e.1 < n := by
  intro e he
  unfold Memory.write at he
  simp only [List.mem_append, List.mem_filter] at he
  rcases he with (he | he) | he
  · exact h e he.1
  · split at he <;> simp at he
    subst he; exact hk
  · exact h e he.1

theorem Memory.clear_succ (m : Memory) (n : Nat) : m.clear (n + 1) = (m.clear n).write n 0#3 := by
  simp [Memory.clear, List.range_succ]

/-- CLEAR's loop leaves every cell below n black and every other cell as it was (40_framebuffer_store.md R110). -/
theorem Memory.read_clear (m : Memory) (n k : Nat) : (m.clear n).read k = if k < n then 0#3 else m.read k := by
  induction n with
  | zero => simp [Memory.clear]
  | succ n ih =>
    rw [Memory.clear_succ, Memory.read_write, ih]
    split
    · simp_all
    · split <;> split <;> first | rfl | omega

/-- CLEAR's loop keeps the canonical form. -/
theorem Memory.clear_wf {m : Memory} (h : m.wf = true) (n : Nat) : (m.clear n).wf = true := by
  induction n with
  | zero => simpa [Memory.clear] using h
  | succ n ih => rw [Memory.clear_succ]; exact Memory.write_wf ih _ _

/-- CLEAR's loop adds no entry. -/
theorem Memory.clear_subset (m : Memory) (n : Nat) : ∀ e ∈ m.clear n, e ∈ m := by
  induction n with
  | zero => simp [Memory.clear]
  | succ n ih =>
    intro e he
    rw [Memory.clear_succ] at he
    unfold Memory.write at he
    simp only [if_true, List.append_nil, List.mem_append, List.mem_filter] at he
    rcases he with he | he <;> exact ih e he.1

/-- The memory of reset is in canonical form. -/
theorem Memory.reset_wf : (State.reset.fb).wf = true := rfl

end Sys2Proof.Machine
end

