-- ==== Sys2Proof/Laws/Operands.lean ====
section
/-! SUPPORT. What a write of one line does to every line (10_state.md R26, 44_line_primitives.md R190). -/

namespace Sys2Proof.Machine

theorem getLsbD_setAddressBit (v : BitVec 12) (i : Nat) (b : Level) (j : Nat) :
    (setAddressBit v i b).getLsbD j = if j = i ∧ i < 12 then b else v.getLsbD j := by
  have h1 : ((1#12) <<< i).getLsbD j = decide (j = i ∧ i < 12) := by
    rw [BitVec.getLsbD_shiftLeft, BitVec.getLsbD_one, Bool.eq_iff_iff]
    simp only [Bool.and_eq_true, Bool.not_eq_true', decide_eq_true_eq, decide_eq_false_iff_not]
    omega
  by_cases hj : j < 12
  · cases b
    · simp only [setAddressBit, Bool.false_eq_true, if_false, BitVec.getLsbD_and, BitVec.getLsbD_not, h1, hj]
      split
      · rename_i h; simp only [h, and_self, decide_true, Bool.not_true, Bool.and_false]
      · rename_i h; simp only [h, decide_true, decide_false, Bool.not_false, Bool.and_true]
    · simp only [setAddressBit, if_true, BitVec.getLsbD_or, h1]
      split
      · rename_i h; simp only [h, and_self, decide_true, Bool.or_true]
      · rename_i h; simp only [h, decide_false, Bool.or_false]
  · rw [if_neg (by omega), BitVec.getLsbD_of_ge _ _ (by omega), BitVec.getLsbD_of_ge _ _ (by omega)]

/-- A line reads as it was last written, and no write of another line changes it. -/
theorem getLine_setLine (ln : Lines) (l l' : Line) (v : Level) (h : l.present 12 = true) :
    getLine (setLine ln l v) l' = if l' = l then v else getLine ln l' := by
  cases l <;> cases l' <;> simp_all [getLine, setLine, getLsbD_setAddressBit, Line.present]

/-- Writing the level a line has changes nothing (44_line_primitives.md R192). -/
theorem setLine_same (ln : Lines) (l : Line) : setLine ln l (getLine ln l) = ln := by
  cases l <;> try rfl
  rename_i i
  simp only [setLine, getLine]
  congr 1
  apply BitVec.eq_of_getLsbD_eq
  intro j _
  rw [getLsbD_setAddressBit]
  split
  · rename_i h; rw [h.1]
  · rfl

/-- The fields of a written LINE, line by line: what `setLine` leaves alone. -/
@[simp] theorem setLine_addr_other (ln : Lines) (l : Line) (v : Level) (h : ∀ j, l ≠ .addr j) :
    (setLine ln l v).addr = ln.addr := by
  cases l <;> simp_all [setLine]

theorem Line.present_twelve {aw : Nat} {l : Line} (h : l.present aw = true) : l.present 12 = true := by
  cases l <;> simp_all [Line.present]

end Sys2Proof.Machine
end

