-- ==== Sys2Proof/Laws/PerInstr.lean ====
section
/-! SUPPORT. Per instruction: its word matches its row of spec/opcode_table.json. -/

namespace Sys2Proof.Laws.TableRow

/-- The mask of an instruction's row in the opcode table. -/
def mask : Instr → Word
  | .clear => 0xF0000000#32
  | .setPixel _ _ _ => 0xF0000000#32
  | .getPixel _ _ => 0xF0000000#32
  | .refreshOnce => 0xF0000000#32
  | .wl _ _ => 0xFFFFFE00#32
  | .slp _ => 0xC0000000#32

/-- The match value of an instruction's row in the opcode table. -/
def matched : Instr → Word
  | .clear => 0x10000000#32
  | .setPixel _ _ _ => 0x20000000#32
  | .getPixel _ _ => 0x30000000#32
  | .refreshOnce => 0x40000000#32
  | .wl _ _ => 0x40000000#32
  | .slp _ => 0x80000000#32

/-- The word of the instruction stands in its row (30_encoding.md R82, R89). -/
def Statement (i : Instr) : Prop := encode i &&& mask i = matched i

theorem clear : Statement .clear := by unfold Statement; decide

theorem setPixel (row col : Coord) (color : Color) : Statement (.setPixel row col color) := by
  unfold Statement mask matched encode
  apply BitVec.eq_of_getLsbD_eq
  intro j hj
  interval_cases j <;> simp

theorem getPixel (row col : Coord) : Statement (.getPixel row col) := by
  unfold Statement mask matched encode
  apply BitVec.eq_of_getLsbD_eq
  intro j hj
  interval_cases j <;> simp

theorem refreshOnce : Statement .refreshOnce := by unfold Statement; decide

theorem wl (line : Line) (level : Level) : Statement (.wl line level) := by
  unfold Statement mask matched encode
  generalize lineId line = id
  apply BitVec.eq_of_getLsbD_eq
  intro j hj
  cases level <;> interval_cases j <;> simp

theorem slp (n : Nat) : Statement (.slp n) := by
  unfold Statement mask matched encode
  generalize BitVec.ofNat 30 n = d
  apply BitVec.eq_of_getLsbD_eq
  intro j hj
  interval_cases j <;> simp

end Sys2Proof.Laws.TableRow
end

