-- ==== Sys2Proof/Laws/Run.lean ====
section
/-! SUPPORT. Runs: how steps compose, said once; and where a row of a refresh begins. -/

namespace Sys2Proof.Machine

/-- No step leads nowhere else. -/
theorem State.runsTo_zero {s t : State} : s.runsTo 0 t ↔ t = s := Iff.rfl

/-- A run begins with a step. -/
theorem State.runsTo_succ {k : Nat} {s t : State} :
    s.runsTo (k + 1) t ↔ ∃ m, step s = .next m ∧ m.runsTo k t := Iff.rfl

/-- Runs compose. -/
theorem State.runsTo_add {j k : Nat} {s m t : State} (h1 : s.runsTo j m) (h2 : m.runsTo k t) :
    s.runsTo (j + k) t := by
  induction j generalizing s with
  | zero => rw [State.runsTo_zero] at h1; subst h1; simpa using h2
  | succ j ih =>
    obtain ⟨m', hs, hm⟩ := State.runsTo_succ.1 h1
    rw [Nat.succ_add]
    exact State.runsTo_succ.2 ⟨m', hs, ih hm⟩

/-- A property that every step keeps holds at the end of every run that begins with it. -/
theorem State.runsTo_induction {P : State → Prop} (hstep : ∀ s t, P s → step s = .next t → P t) {k : Nat}
    {s t : State} (hs : P s) (h : s.runsTo k t) : P t := by
  induction k generalizing s with
  | zero => rw [State.runsTo_zero] at h; subst h; exact hs
  | succ k ih =>
    obtain ⟨m, h1, h2⟩ := State.runsTo_succ.1 h
    exact ih (hstep _ _ hs h1) h2

/-- Before its first step RowScan asks nothing of the lines (41_gpio_protocol_sequencer.md R133). -/
theorem rowLines_zero (c : Config) (ln : Lines) (px : Color) (a : Nat) : RowLines c ln px a 0 := by
  constructor
  · omega
  · omega
  · intro col j _ _ h; unfold Config.columnBase at h; omega
  · intro j _ h; unfold Config.latchBase at h; omega

end Sys2Proof.Machine
end

