-- ==== Sys2Proof/Laws/State.lean ====
section
/-! SUPPORT. One lemma per field of State per named update. -/

namespace Sys2Proof.Machine

section Elapse

variable (s : State) (n : Nat)

@[simp] theorem State.elapse_cfg : (s.elapse n).cfg = s.cfg := rfl
@[simp] theorem State.elapse_fb : (s.elapse n).fb = s.fb := rfl
@[simp] theorem State.elapse_line : (s.elapse n).line = s.line := rfl
@[simp] theorem State.elapse_seq : (s.elapse n).seq = s.seq := rfl
@[simp] theorem State.elapse_px : (s.elapse n).px = s.px := rfl
@[simp] theorem State.elapse_resp : (s.elapse n).resp = s.resp := rfl
@[simp] theorem State.elapse_clearing : (s.elapse n).clearing = s.clearing := rfl
@[simp] theorem State.elapse_port : (s.elapse n).port = s.port := rfl
@[simp] theorem State.elapse_sched : (s.elapse n).sched = s.sched := rfl
@[simp] theorem State.elapse_trace : (s.elapse n).trace = s.trace := rfl
@[simp] theorem State.elapse_responses : (s.elapse n).responses = s.responses := rfl
@[simp] theorem State.elapse_panel : (s.elapse n).panel = s.panel := rfl
@[simp] theorem State.elapse_time : (s.elapse n).time = s.time + n + Config.overshoot s.draws := rfl
@[simp] theorem State.elapse_draws : (s.elapse n).draws = s.draws + 1 := rfl

end Elapse

section WriteCell

variable (s : State) (k : Nat) (v : Color)

@[simp] theorem State.writeCell_cfg : (s.writeCell k v).cfg = s.cfg := rfl
@[simp] theorem State.writeCell_fb : (s.writeCell k v).fb = s.fb.write k v := rfl
@[simp] theorem State.writeCell_line : (s.writeCell k v).line = s.line := rfl
@[simp] theorem State.writeCell_seq : (s.writeCell k v).seq = s.seq := rfl
@[simp] theorem State.writeCell_px : (s.writeCell k v).px = s.px := rfl
@[simp] theorem State.writeCell_resp : (s.writeCell k v).resp = s.resp := rfl
@[simp] theorem State.writeCell_clearing : (s.writeCell k v).clearing = s.clearing := rfl
@[simp] theorem State.writeCell_port : (s.writeCell k v).port = s.port := rfl
@[simp] theorem State.writeCell_sched : (s.writeCell k v).sched = s.sched := rfl
@[simp] theorem State.writeCell_trace : (s.writeCell k v).trace = s.trace := rfl
@[simp] theorem State.writeCell_responses : (s.writeCell k v).responses = s.responses := rfl
@[simp] theorem State.writeCell_panel : (s.writeCell k v).panel = s.panel := rfl
@[simp] theorem State.writeCell_time : (s.writeCell k v).time = s.time := rfl
@[simp] theorem State.writeCell_draws : (s.writeCell k v).draws = s.draws := rfl

end WriteCell

section Respond

variable (s : State) (k : Color)

@[simp] theorem State.respond_cfg : (s.respond k).cfg = s.cfg := rfl
@[simp] theorem State.respond_fb : (s.respond k).fb = s.fb := rfl
@[simp] theorem State.respond_line : (s.respond k).line = s.line := rfl
@[simp] theorem State.respond_seq : (s.respond k).seq = s.seq := rfl
@[simp] theorem State.respond_px : (s.respond k).px = s.px := rfl
@[simp] theorem State.respond_resp : (s.respond k).resp = some k := rfl
@[simp] theorem State.respond_clearing : (s.respond k).clearing = s.clearing := rfl
@[simp] theorem State.respond_port : (s.respond k).port = s.port := rfl
@[simp] theorem State.respond_sched : (s.respond k).sched = s.sched := rfl
@[simp] theorem State.respond_trace : (s.respond k).trace = s.trace := rfl
@[simp] theorem State.respond_responses : (s.respond k).responses = s.responses ++ [k] := rfl
@[simp] theorem State.respond_panel : (s.respond k).panel = s.panel := rfl
@[simp] theorem State.respond_time : (s.respond k).time = s.time := rfl
@[simp] theorem State.respond_draws : (s.respond k).draws = s.draws := rfl

end Respond

section Emit

variable (s : State) (e : Event)

@[simp] theorem State.emit_cfg : (s.emit e).cfg = s.cfg := rfl
@[simp] theorem State.emit_fb : (s.emit e).fb = s.fb := rfl
@[simp] theorem State.emit_line : (s.emit e).line = s.line := rfl
@[simp] theorem State.emit_seq : (s.emit e).seq = s.seq := rfl
@[simp] theorem State.emit_px : (s.emit e).px = s.px := rfl
@[simp] theorem State.emit_resp : (s.emit e).resp = s.resp := rfl
@[simp] theorem State.emit_clearing : (s.emit e).clearing = s.clearing := rfl
@[simp] theorem State.emit_port : (s.emit e).port = s.port := rfl
@[simp] theorem State.emit_sched : (s.emit e).sched = s.sched := rfl
@[simp] theorem State.emit_trace : (s.emit e).trace = s.trace ++ [e] := rfl
@[simp] theorem State.emit_responses : (s.emit e).responses = s.responses := rfl
@[simp] theorem State.emit_panel : (s.emit e).panel = s.panel := rfl
@[simp] theorem State.emit_time : (s.emit e).time = s.time := rfl
@[simp] theorem State.emit_draws : (s.emit e).draws = s.draws := rfl

end Emit

section WriteLine

variable (s : State) (l : Line) (v : Level)

@[simp] theorem State.writeLine_cfg : (s.writeLine l v).cfg = s.cfg := rfl
@[simp] theorem State.writeLine_fb : (s.writeLine l v).fb = s.fb := rfl
@[simp] theorem State.writeLine_line : (s.writeLine l v).line = setLine s.line l v := rfl
@[simp] theorem State.writeLine_seq : (s.writeLine l v).seq = s.seq := rfl
@[simp] theorem State.writeLine_px : (s.writeLine l v).px = s.px := rfl
@[simp] theorem State.writeLine_resp : (s.writeLine l v).resp = s.resp := rfl
@[simp] theorem State.writeLine_clearing : (s.writeLine l v).clearing = s.clearing := rfl
@[simp] theorem State.writeLine_port : (s.writeLine l v).port = s.port := rfl
@[simp] theorem State.writeLine_sched : (s.writeLine l v).sched = s.sched := rfl
@[simp] theorem State.writeLine_trace : (s.writeLine l v).trace = s.trace := rfl
@[simp] theorem State.writeLine_responses : (s.writeLine l v).responses = s.responses := rfl
@[simp] theorem State.writeLine_panel : (s.writeLine l v).panel = s.panel.onWrite s.cfg.cols s.line l v := rfl
@[simp] theorem State.writeLine_time : (s.writeLine l v).time = s.time := rfl
@[simp] theorem State.writeLine_draws : (s.writeLine l v).draws = s.draws := rfl

end WriteLine

section ReadCell

variable (s : State) (a c : Nat)

@[simp] theorem State.readCell_cfg : (s.readCell a c).cfg = s.cfg := rfl
@[simp] theorem State.readCell_fb : (s.readCell a c).fb = s.fb := rfl
@[simp] theorem State.readCell_line : (s.readCell a c).line = s.line := rfl
@[simp] theorem State.readCell_seq : (s.readCell a c).seq = s.seq := rfl
@[simp] theorem State.readCell_px : (s.readCell a c).px = s.pixel a c := rfl
@[simp] theorem State.readCell_resp : (s.readCell a c).resp = s.resp := rfl
@[simp] theorem State.readCell_clearing : (s.readCell a c).clearing = s.clearing := rfl
@[simp] theorem State.readCell_port : (s.readCell a c).port = s.port := rfl
@[simp] theorem State.readCell_sched : (s.readCell a c).sched = s.sched := rfl
@[simp] theorem State.readCell_trace : (s.readCell a c).trace = s.trace := rfl
@[simp] theorem State.readCell_responses : (s.readCell a c).responses = s.responses := rfl
@[simp] theorem State.readCell_panel : (s.readCell a c).panel = s.panel := rfl
@[simp] theorem State.readCell_time : (s.readCell a c).time = s.time := rfl
@[simp] theorem State.readCell_draws : (s.readCell a c).draws = s.draws := rfl

end ReadCell

section Advance

variable (s : State) (a i : Nat)

@[simp] theorem State.advance_cfg : (s.advance a i).cfg = s.cfg := rfl
@[simp] theorem State.advance_fb : (s.advance a i).fb = s.fb := rfl
@[simp] theorem State.advance_line : (s.advance a i).line = s.line := rfl
@[simp] theorem State.advance_seq : (s.advance a i).seq = advanceSeq s.cfg a i := rfl
@[simp] theorem State.advance_px : (s.advance a i).px = s.px := rfl
@[simp] theorem State.advance_resp : (s.advance a i).resp = s.resp := rfl
@[simp] theorem State.advance_clearing : (s.advance a i).clearing = s.clearing := rfl
@[simp] theorem State.advance_port : (s.advance a i).port = s.port := rfl
@[simp] theorem State.advance_sched : (s.advance a i).sched = s.sched := rfl
@[simp] theorem State.advance_trace : (s.advance a i).trace = s.trace := rfl
@[simp] theorem State.advance_responses : (s.advance a i).responses = s.responses := rfl
@[simp] theorem State.advance_panel : (s.advance a i).panel = s.panel := rfl
@[simp] theorem State.advance_time : (s.advance a i).time = s.time := rfl
@[simp] theorem State.advance_draws : (s.advance a i).draws = s.draws := rfl

end Advance

section BeginStep

variable (s : State)

@[simp] theorem State.beginStep_cfg : (s.beginStep).cfg = s.cfg := rfl
@[simp] theorem State.beginStep_fb : (s.beginStep).fb = s.fb := rfl
@[simp] theorem State.beginStep_line : (s.beginStep).line = s.line := rfl
@[simp] theorem State.beginStep_seq : (s.beginStep).seq = s.seq := rfl
@[simp] theorem State.beginStep_px : (s.beginStep).px = s.px := rfl
@[simp] theorem State.beginStep_resp : (s.beginStep).resp = none := rfl
@[simp] theorem State.beginStep_clearing : (s.beginStep).clearing = s.clearing := rfl
@[simp] theorem State.beginStep_port : (s.beginStep).port = s.port := rfl
@[simp] theorem State.beginStep_sched : (s.beginStep).sched = if s.contested then s.sched.tail else s.sched := rfl
@[simp] theorem State.beginStep_trace : (s.beginStep).trace = s.trace := rfl
@[simp] theorem State.beginStep_responses : (s.beginStep).responses = s.responses := rfl
@[simp] theorem State.beginStep_panel : (s.beginStep).panel = s.panel := rfl
@[simp] theorem State.beginStep_time : (s.beginStep).time = s.time := rfl
@[simp] theorem State.beginStep_draws : (s.beginStep).draws = s.draws := rfl

end BeginStep

section TakeWord

variable (s : State)

@[simp] theorem State.takeWord_cfg : (s.takeWord).cfg = s.cfg := rfl
@[simp] theorem State.takeWord_fb : (s.takeWord).fb = s.fb := rfl
@[simp] theorem State.takeWord_line : (s.takeWord).line = s.line := rfl
@[simp] theorem State.takeWord_seq : (s.takeWord).seq = s.seq := rfl
@[simp] theorem State.takeWord_px : (s.takeWord).px = s.px := rfl
@[simp] theorem State.takeWord_resp : (s.takeWord).resp = s.resp := rfl
@[simp] theorem State.takeWord_clearing : (s.takeWord).clearing = s.clearing := rfl
@[simp] theorem State.takeWord_port : (s.takeWord).port = s.port.tail := rfl
@[simp] theorem State.takeWord_sched : (s.takeWord).sched = s.sched := rfl
@[simp] theorem State.takeWord_trace : (s.takeWord).trace = s.trace := rfl
@[simp] theorem State.takeWord_responses : (s.takeWord).responses = s.responses := rfl
@[simp] theorem State.takeWord_panel : (s.takeWord).panel = s.panel := rfl
@[simp] theorem State.takeWord_time : (s.takeWord).time = s.time := rfl
@[simp] theorem State.takeWord_draws : (s.takeWord).draws = s.draws := rfl

end TakeWord

section ClearOne

variable (s : State)

@[simp] theorem State.clearOne_cfg : s.clearOne.cfg = s.cfg := by
  unfold State.clearOne; dsimp only; split <;> rfl
@[simp] theorem State.clearOne_line : s.clearOne.line = s.line := by
  unfold State.clearOne; dsimp only; split <;> rfl
@[simp] theorem State.clearOne_seq : s.clearOne.seq = s.seq := by
  unfold State.clearOne; dsimp only; split <;> rfl
@[simp] theorem State.clearOne_px : s.clearOne.px = s.px := by
  unfold State.clearOne; dsimp only; split <;> rfl
@[simp] theorem State.clearOne_resp : s.clearOne.resp = s.resp := by
  unfold State.clearOne; dsimp only; split <;> rfl
@[simp] theorem State.clearOne_port : s.clearOne.port = s.port := by
  unfold State.clearOne; dsimp only; split <;> rfl
@[simp] theorem State.clearOne_sched : s.clearOne.sched = s.sched := by
  unfold State.clearOne; dsimp only; split <;> rfl
@[simp] theorem State.clearOne_trace : s.clearOne.trace = s.trace := by
  unfold State.clearOne; dsimp only; split <;> rfl
@[simp] theorem State.clearOne_responses : s.clearOne.responses = s.responses := by
  unfold State.clearOne; dsimp only; split <;> rfl
@[simp] theorem State.clearOne_panel : s.clearOne.panel = s.panel := by
  unfold State.clearOne; dsimp only; split <;> rfl
@[simp] theorem State.clearOne_time : s.clearOne.time = s.time := by
  unfold State.clearOne; dsimp only; split <;> rfl
@[simp] theorem State.clearOne_draws : s.clearOne.draws = s.draws := by
  unfold State.clearOne; dsimp only; split <;> rfl

end ClearOne

@[simp] theorem State.elapse_busy (s : State) (n : Nat) : (s.elapse n).busy = s.busy := rfl
@[simp] theorem State.beginStep_busy (s : State) : s.beginStep.busy = s.busy := rfl
@[simp] theorem State.takeWord_busy (s : State) : s.takeWord.busy = s.busy := rfl

theorem State.busy_eq_false {s : State} (h : s.seq = .idle) : s.busy = false := by
  simp [State.busy, h]

theorem State.busy_eq_true {s : State} {a i : Nat} (h : s.seq = .busy a i) : s.busy = true := by
  simp [State.busy, h]

end Sys2Proof.Machine
end

