-- ==== Sys2Proof/Laws/Step.lean ====
section
/-! SUPPORT. What each shared operation and the step can do, said once: cite these instead of unfolding. -/

namespace Sys2Proof.Machine

/-- One cell write of a CLEAR in progress (40_framebuffer_store.md R111): nothing where none is in progress,
otherwise one of the cells left, written black and taken off the list. -/
theorem State.clearOne_cases (s : State) :
    (s.clearing = [] ∧ s.clearOne = s) ∨
    ∃ i k, s.clearing[i]? = some k ∧
      s.clearOne = { s with fb := s.fb.write k 0#3, clearing := s.clearing.eraseIdx i } := by
  unfold State.clearOne
  dsimp only
  by_cases h : s.clearing = []
  · left; simp [h]
  · right
    have hlt : Config.clearPick s.draws % s.clearing.length < s.clearing.length :=
      Nat.mod_lt _ (List.length_pos_of_ne_nil h)
    have hget := List.getElem?_eq_getElem hlt
    exact ⟨Config.clearPick s.draws % s.clearing.length, _, hget, by rw [hget]⟩

/-- WL answers a next state exactly where the line exists (44_line_primitives.md R190). -/
theorem execWl_cases (l : Line) (v : Level) (s : State) :
    (l.present s.cfg.aw = true ∧
      execWl l v s = .next (((s.writeLine l v).emit (.write l v)).elapse 0)) ∨
    (l.present s.cfg.aw = false ∧ execWl l v s = .refused (.absentLine l)) := by
  unfold execWl
  cases l.present s.cfg.aw <;> simp

/-- SET_PIXEL always answers a next state (40_framebuffer_store.md R113). -/
theorem execSetPixel_cases (row col : Coord) (color : Color) (s : State) :
    (s.cfg.inBounds row.toNat col.toNat = true ∧ execSetPixel row col color s =
      .next ((s.writeCell (s.cfg.cellIndex row.toNat col.toNat) color).elapse 0)) ∨
    (s.cfg.inBounds row.toNat col.toNat = false ∧ execSetPixel row col color s = .next (s.elapse 0)) := by
  unfold execSetPixel cellOf
  cases s.cfg.inBounds row.toNat col.toNat <;> simp

/-- GET_PIXEL always answers a next state (40_framebuffer_store.md R116, R117). -/
theorem execGetPixel_cases (row col : Coord) (s : State) :
    (s.cfg.inBounds row.toNat col.toNat = true ∧
      execGetPixel row col s = .next ((s.respond (s.pixel row.toNat col.toNat)).elapse 0)) ∨
    (s.cfg.inBounds row.toNat col.toNat = false ∧
      execGetPixel row col s = .next ((s.respond (Config.outOfBoundsResponse s.draws)).elapse 0)) := by
  unfold execGetPixel cellOf State.pixel
  cases s.cfg.inBounds row.toNat col.toNat <;> simp

/-- CLEAR always answers a next state, by whether a refresh is in progress (40_framebuffer_store.md R110, R111). -/
theorem execClear_cases (s : State) :
    (s.busy = false ∧ execClear s = .next ({ s with fb := s.fb.clear s.cfg.cellCount }.elapse 0)) ∨
    (s.busy = true ∧
      execClear s = .next (({ s with clearing := List.range s.cfg.cellCount }.clearOne).elapse 0)) := by
  unfold execClear State.busy
  cases s.seq <;> simp

/-- REFRESH_ONCE always answers a next state (41_gpio_protocol_sequencer.md R130, 60_exceptions.md R238). -/
theorem execRefreshOnce_cases (s : State) :
    (s.busy = false ∧ execRefreshOnce s = .next ({ s with seq := .busy 0 0 }.elapse 0)) ∨
    (s.busy = true ∧ execRefreshOnce s = .next s) := by
  unfold execRefreshOnce State.busy
  cases s.seq <;> simp

/-- Which agent moves (60_exceptions.md R241). -/
theorem State.turn_host_iff (s : State) :
    s.turn = some .host ↔ s.hostReady = true ∧ (s.busy = false ∨ s.sched.head? = some .host) := by
  unfold State.turn
  cases s.hostReady <;> cases s.busy <;> simp
  cases s.sched with
  | nil => simp
  | cons x xs => cases x <;> simp

theorem State.turn_sequencer_iff (s : State) :
    s.turn = some .sequencer ↔ s.busy = true ∧ (s.hostReady = false ∨ s.sched.head? ≠ some .host) := by
  unfold State.turn
  cases s.hostReady <;> cases s.busy <;> simp
  cases s.sched with
  | nil => simp
  | cons x xs => cases x <;> simp

theorem State.turn_none_iff (s : State) : s.turn = none ↔ s.hostReady = false ∧ s.busy = false := by
  unfold State.turn
  cases s.hostReady <;> cases s.busy <;> simp

theorem positionInRange_iff (c : Config) (a i : Nat) :
    positionInRange c a i = true ↔ a < c.rows ∧ i < c.rowLength := by
  simp [positionInRange]

/-- What a step of the host can do (60_exceptions.md R241 (a)). -/
theorem hostStep_cases {s t : State} (h : hostStep s = .next t) :
    (s.clearing ≠ [] ∧ t = s.clearOne.elapse 0) ∨
    (s.clearing = [] ∧ s.port = [] ∧ t = s) ∨
    (s.clearing = [] ∧ ∃ w rest i, s.port = w :: rest ∧ decodeCommand w = .ok i ∧ exec i s.takeWord = .next t) := by
  unfold hostStep at h
  split at h
  · rename_i hc; left; exact ⟨by simp [hc], by simpa using h.symm⟩
  · rename_i hc
    right
    split at h
    · rename_i hp; left; exact ⟨hc, hp, by simpa using h.symm⟩
    · rename_i w rest hp
      right
      split at h
      · rename_i i hi; exact ⟨hc, w, rest, i, hp, hi, h⟩
      · simp at h

/-- What a step of the sequencer can do (41_gpio_protocol_sequencer.md R135). -/
theorem sequencerStep_cases {s t : State} {a i : Nat} (hs : s.seq = .busy a i) (h : sequencerStep s = .next t) :
    positionInRange s.cfg a i = true ∧
    ((∃ r c, rowStep s.cfg s.px a i = .read r c ∧ t = ((s.readCell r c).elapse 0).advance a i) ∨
     ∃ u t0, rowStep s.cfg s.px a i = .issue u ∧ exec u s = .next t0 ∧ t = t0.advance a i) := by
  unfold sequencerStep at h
  rw [hs] at h
  dsimp only at h
  split at h
  · rename_i hr
    refine ⟨hr, ?_⟩
    split at h
    · rename_i r c he; left; exact ⟨r, c, he, by simpa using h.symm⟩
    · rename_i u he
      right
      split at h
      · rename_i t0 ht0; exact ⟨u, t0, he, ht0, by simpa using h.symm⟩
      · simp at h
      · simp at h
  · simp at h

/-- What a step can do (60_exceptions.md R241): nothing where no agent is ready, a step of the host, or a step of the
sequencer; only a configured machine takes one. -/
theorem step_cases {s t : State} (h : step s = .next t) :
    s.cfg.wellFormed = true ∧
    ((s.turn = none ∧ t = s.beginStep) ∨
     (s.turn = some .host ∧ hostStep s.beginStep = .next t) ∨
     (s.turn = some .sequencer ∧ sequencerStep s.beginStep = .next t)) := by
  unfold step stepOf at h
  split at h
  · rename_i hw
    refine ⟨hw, ?_⟩
    split at h
    · rename_i ht; left; exact ⟨ht, by simpa using h.symm⟩
    · rename_i ht; right; left; exact ⟨ht, h⟩
    · rename_i ht; right; right; exact ⟨ht, h⟩
  · simp at h

/-- The step where the host moves. -/
theorem step_of_host {s : State} (hw : s.cfg.wellFormed = true) (ht : s.turn = some .host) :
    step s = hostStep s.beginStep := by
  simp [step, stepOf, hw, ht]

/-- The step where the sequencer moves. -/
theorem step_of_sequencer {s : State} (hw : s.cfg.wellFormed = true) (ht : s.turn = some .sequencer) :
    step s = sequencerStep s.beginStep := by
  simp [step, stepOf, hw, ht]

/-- The entry at each position of RowScan, by its part of the list (41_gpio_protocol_sequencer.md R133). -/
theorem rowStep_cases (cfg : Config) (px : Color) (a i : Nat) (h : i < cfg.rowLength) :
    (i = 0 ∧ rowStep cfg px a i = .issue (.wl .oe true)) ∨
    (∃ j, j < cfg.aw ∧ i = 1 + j ∧ rowStep cfg px a i = .issue (.wl (.addr j) (addressBit a j))) ∨
    (∃ c j, c < cfg.cols ∧ j < 10 ∧ i = cfg.columnBase c + j ∧ rowStep cfg px a i = columnStep cfg px a c j) ∨
    (∃ j, j < 6 ∧ i = cfg.latchBase + j ∧ rowStep cfg px a i = tailStep cfg j) := by
  unfold Config.rowLength at h
  by_cases h0 : i = 0
  · left; subst h0; exact ⟨rfl, by simp [rowStep]⟩
  right
  by_cases h1 : i ≤ cfg.aw
  · left; refine ⟨i - 1, by omega, by omega, ?_⟩; unfold rowStep; rw [if_neg h0, if_pos h1]
  right
  by_cases h2 : i < cfg.latchBase
  · left
    refine ⟨(i - cfg.columnBase 0) / 10, (i - cfg.columnBase 0) % 10, ?_, Nat.mod_lt _ (by omega), ?_, ?_⟩
    · unfold Config.latchBase at h2; unfold Config.columnBase; omega
    · unfold Config.latchBase at h2; unfold Config.columnBase; omega
    · unfold rowStep; rw [if_neg h0, if_neg h1, if_pos h2]
  · right
    refine ⟨i - cfg.latchBase, ?_, by omega, ?_⟩
    · unfold Config.latchBase at *; omega
    · unfold rowStep; rw [if_neg h0, if_neg h1, if_neg h2]

/-- What RowScan issues is a WL of a line that exists, never one of lane 2 (10_state.md R27), or a SLP. -/
theorem rowStep_issue {cfg : Config} {px : Color} {a i : Nat} {u : Instr} (hw : cfg.wellFormed = true)
    (hi : i < cfg.rowLength) (h : rowStep cfg px a i = .issue u) :
    (∃ l v, u = .wl l v ∧ l.present cfg.aw = true ∧ l ≠ .r2 ∧ l ≠ .g2 ∧ l ≠ .b2) ∨ ∃ n, u = .slp n := by
  have h12 := Config.aw_le_twelve hw
  rcases rowStep_cases cfg px a i hi with ⟨-, e⟩ | ⟨j, hj, -, e⟩ | ⟨c, j, -, hj, -, e⟩ | ⟨j, hj, -, e⟩ <;> rw [e] at h
  · cases h; simp [Line.present]
  · cases h; left; refine ⟨_, _, rfl, ?_, by simp⟩; simp [Line.present]; omega
  · interval_cases j <;> simp [columnStep] at h <;> subst h <;> simp [Line.present]
  · interval_cases j <;> simp [tailStep] at h <;> subst h <;> simp [Line.present]

/-- Everything a step of the sequencer does (41_gpio_protocol_sequencer.md R135): one entry of RowScan, then the
advance. -/
theorem step_sequencer_cases {s t : State} (ht : s.turn = some .sequencer) (h : step s = .next t) :
    ∃ a i, s.seq = .busy a i ∧ positionInRange s.cfg a i = true ∧ t.seq = advanceSeq s.cfg a i ∧
      t.cfg = s.cfg ∧ t.fb = s.fb ∧ t.clearing = s.clearing ∧ t.port = s.port ∧ t.resp = none ∧
      t.responses = s.responses ∧
      t.sched = s.beginStep.sched ∧
      ((∃ r c, rowStep s.cfg s.px a i = .read r c ∧ t.px = s.pixel r c ∧ t.line = s.line ∧ t.trace = s.trace ∧
          t.panel = s.panel ∧ s.time ≤ t.time) ∨
       (∃ l v, rowStep s.cfg s.px a i = .issue (.wl l v) ∧ l.present s.cfg.aw = true ∧ t.px = s.px ∧
          t.line = setLine s.line l v ∧ t.trace = s.trace ++ [.write l v] ∧
          t.panel = s.panel.onWrite s.cfg.cols s.line l v ∧ s.time ≤ t.time) ∨
       (∃ n, rowStep s.cfg s.px a i = .issue (.slp n) ∧ t.px = s.px ∧ t.line = s.line ∧
          t.trace = s.trace ++ [.delay n] ∧ t.panel = s.panel ∧ s.time + n ≤ t.time)) := by
  obtain ⟨a, i, hs⟩ : ∃ a i, s.seq = .busy a i := by
    have hb := (s.turn_sequencer_iff.1 ht).1
    cases h : s.seq with
    | idle => simp [State.busy, h] at hb
    | busy a i => exact ⟨a, i, rfl⟩
  have hw := (step_cases h).1
  rw [step_of_sequencer hw ht] at h
  obtain ⟨hr, hcase⟩ := sequencerStep_cases (a := a) (i := i) (by simpa using hs) h
  refine ⟨a, i, hs, hr, ?_⟩
  rcases hcase with ⟨r, c, he, rfl⟩ | ⟨u, t0, he, hu, rfl⟩
  · refine ⟨rfl, rfl, rfl, rfl, rfl, rfl, rfl, rfl, Or.inl ⟨r, c, he, rfl, rfl, rfl, rfl, ?_⟩⟩
    simp
  · have hi := ((positionInRange_iff s.cfg a i).1 hr).2
    rcases rowStep_issue hw hi he with ⟨l, v, rfl, hp, -⟩ | ⟨n, rfl⟩
    · simp only [exec, execWl, State.beginStep_cfg, hp, if_true] at hu; cases hu
      refine ⟨rfl, rfl, rfl, rfl, rfl, rfl, rfl, rfl, Or.inr (Or.inl ⟨l, v, he, hp, rfl, rfl, rfl, rfl, ?_⟩)⟩
      simp
    · simp only [exec, execSlp] at hu; cases hu
      refine ⟨rfl, rfl, rfl, rfl, rfl, rfl, rfl, rfl, Or.inr (Or.inr ⟨n, he, rfl, rfl, rfl, rfl, ?_⟩)⟩
      simp

end Sys2Proof.Machine
end

