-- ==== Sys2Proof/Laws/Trace.lean ====
section
/-! SUPPORT. Traces that follow one another: what their levels, their panel and their delays are. -/

namespace Sys2Proof.Machine

@[simp] theorem levelsAfter_nil (ln : Lines) : levelsAfter ln [] = ln := rfl

@[simp] theorem levelsAfter_cons (ln : Lines) (e : Event) (es : List Event) :
    levelsAfter ln (e :: es) = levelsAfter (e.levels ln) es := rfl

/-- The levels after two lists of events (44_line_primitives.md R199). -/
theorem levelsAfter_append (ln : Lines) (es fs : List Event) :
    levelsAfter ln (es ++ fs) = levelsAfter (levelsAfter ln es) fs := by
  simp [levelsAfter]

/-- The panel after two lists of events (45_panel_observer.md R212, R214). -/
theorem panelAfter_append (cols : Nat) (ln : Lines) (p : Panel) (es fs : List Event) :
    panelAfter cols ln p (es ++ fs) = panelAfter cols (levelsAfter ln es) (panelAfter cols ln p es) fs := by
  induction es generalizing ln p with
  | nil => rfl
  | cons e es ih => cases e <;> simp [panelAfter, Event.levels, ih]

/-- The waveform of two lists of events (44_line_primitives.md R199). -/
theorem waveform_append (ln : Lines) (es fs : List Event) :
    waveform ln (es ++ fs) = waveform ln es ++ waveform (levelsAfter ln es) fs := by
  induction es generalizing ln with
  | nil => rfl
  | cons e es ih =>
    cases e with
    | delay n => simp [waveform, Event.levels, ih]
    | write l v =>
      simp only [List.cons_append, waveform, levelsAfter_cons, Event.levels]
      split
      · rename_i h; rw [ih, show setLine ln l v = ln by subst h; exact setLine_same ln l]
      · rw [ih, List.cons_append]

/-- The delays of two lists of events add up (41_gpio_protocol_sequencer.md R141). -/
@[simp] theorem requestedDelay_append (es fs : List Event) :
    requestedDelay (es ++ fs) = requestedDelay es + requestedDelay fs := by
  simp [requestedDelay]

end Sys2Proof.Machine
end

