-- ==== Sys2Proof/Machine/Assembler.lean ====
section
/-! DEFINITION. The textual form of a command (30_encoding.md R94) and the colour names (R84, R95 (a)). The machine
itself never reads text: what is here ends in an instruction that `encode` turns into its word. -/

namespace Sys2Proof.Machine

/-- The eight colour names (R84). Their pairing with the numbers is PRESUMED for yellow, magenta and cyan (the
spec's G1; log 19); no behaviour depends on a name. -/
def colorNames : List (List Char × Color) :=
  [("black".toList, 0#3), ("red".toList, 1#3), ("green".toList, 2#3), ("yellow".toList, 3#3),
   ("blue".toList, 4#3), ("magenta".toList, 5#3), ("cyan".toList, 6#3), ("white".toList, 7#3)]

/-- The parts of a line of text. -/
inductive Token where
  | name (cs : List Char)
  | number (n : Nat)
  | lparen
  | comma
  | rparen
  deriving DecidableEq, Repr

/-- What a line of text assembles to. -/
inductive AsmLine where
  /-- An empty line or a comment. -/
  | blank
  | command (i : Instr)
  /-- No command: a line that has not the form of R94, a coordinate above 4095, a colour above 7. -/
  | error
  deriving DecidableEq, Repr

/-- The value of a hexadecimal digit, either case. -/
def hexDigit (c : Char) : Option Nat :=
  if '0' ≤ c ∧ c ≤ '9' then some (c.toNat - '0'.toNat)
  else if 'a' ≤ c ∧ c ≤ 'f' then some (c.toNat - 'a'.toNat + 10)
  else if 'A' ≤ c ∧ c ≤ 'F' then some (c.toNat - 'A'.toNat + 10)
  else none

/-- The number that digits of a base write, most significant first; none where one is no digit of it. -/
def digitsValue (base : Nat) : List Char → Nat → Option Nat
  | [], n => some n
  | c :: cs, n =>
    match hexDigit c with
    | some d => if d < base then digitsValue base cs (n * base + d) else none
    | none => none

/-- A decimal number, or a hexadecimal one after `0x` (R94). -/
def numberOf : List Char → Option Nat
  | [] => none
  | ['0', 'x'] => none
  | '0' :: 'x' :: ds => digitsValue 16 ds 0
  | ds => digitsValue 10 ds 0

/-- The token of a run of letters, digits and underscores. -/
def wordToken : List Char → Option Token
  | [] => none
  | c :: cs => if c.isDigit then (numberOf (c :: cs)).map .number else some (.name (c :: cs))

/-- The tokens before `word`'s own, with `word` (if any) put first. -/
def flushWord (word : List Char) (rest : Option (List Token)) : Option (List Token) :=
  match word with
  | [] => rest
  | _ :: _ =>
    match wordToken word, rest with
    | some t, some ts => some (t :: ts)
    | _, _ => none

/-- The tokens of a line, `word` being the run read so far; `#` begins a comment (R94). -/
def tokensFrom (word : List Char) : List Char → Option (List Token)
  | [] => flushWord word (some [])
  | c :: cs =>
    if c = '#' then flushWord word (some [])
    else if c = ' ' ∨ c = '\t' then flushWord word (tokensFrom [] cs)
    else if c = '(' then flushWord word ((tokensFrom [] cs).map (.lparen :: ·))
    else if c = ')' then flushWord word ((tokensFrom [] cs).map (.rparen :: ·))
    else if c = ',' then flushWord word ((tokensFrom [] cs).map (.comma :: ·))
    else if c.isAlphanum ∨ c = '_' then tokensFrom (word ++ [c]) cs
    else none

/-- A coordinate operand: above 4095 it is an assembly error (R94). -/
def coordOperand : Token → Option Coord
  | .number n => if n ≤ 4095 then some (BitVec.ofNat 12 n) else none
  | .name _ | .lparen | .comma | .rparen => none

/-- A colour operand, a number 0 to 7 or a colour name (R94, R95 (a)). -/
def colorOperand : Token → Option Color
  | .number n => if n ≤ 7 then some (BitVec.ofNat 3 n) else none
  | .name cs => colorNames.lookup cs
  | .lparen | .comma | .rparen => none

/-- One line of text as a command (R94). -/
def assembleLine (text : List Char) : AsmLine :=
  match tokensFrom [] text with
  | some [] => .blank
  | some [.name f, .lparen, .rparen] =>
    if f = "clear".toList then .command .clear
    else if f = "refresh_once".toList then .command .refreshOnce
    else .error
  | some [.name f, .lparen, r, .comma, c, .rparen] =>
    if f = "get_pixel".toList then
      match coordOperand r, coordOperand c with
      | some row, some col => .command (.getPixel row col)
      | _, _ => .error
    else .error
  | some [.name f, .lparen, r, .comma, c, .comma, k, .rparen] =>
    if f = "set_pixel".toList then
      match coordOperand r, coordOperand c, colorOperand k with
      | some row, some col, some color => .command (.setPixel row col color)
      | _, _, _ => .error
    else .error
  | _ => .error

end Sys2Proof.Machine
end

