-- ==== Sys2Proof/Tests/Slice0.lean ====
section
/-! SUPPORT. Small tests on fixed values, expected results from spec/95_test_vectors.md or by hand from the rules,
and for every obligation with hypotheses a state or an operand that meets them. -/

namespace Sys2Proof.Tests

open Sys2Proof.Machine

/-! ## Ill-formed terms are refused -/

theorem test_wf_absent_address_line : Instr.wellFormed 2 (.wl (.addr 2) true) = false := by decide

theorem test_wf_last_address_line : Instr.wellFormed 2 (.wl (.addr 1) true) = true := by decide

theorem test_wf_delay_too_long : Instr.wellFormed 2 (.slp (2 ^ 30)) = false := by decide

theorem test_wf_longest_delay : Instr.wellFormed 2 (.slp (2 ^ 30 - 1)) = true := by decide

theorem test_wf_no_rows : Config.wellFormed { Config.default with rows := 0 } = false := by decide

theorem test_wf_too_many_rows : Config.wellFormed { Config.default with rows := 4097 } = false := by decide

theorem test_wf_no_columns : Config.wellFormed { Config.default with cols := 0 } = false := by decide

theorem test_wf_too_many_columns : Config.wellFormed { Config.default with cols := 4097 } = false := by decide

theorem test_wf_level_of_absent_line :
    Config.wellFormed { Config.default with lineInit := { Lines.defaultInit with addr := 4#12 } } = false := by decide

theorem test_wf_largest :
    Config.wellFormed { Config.default with rows := 4096, cols := 4096 } = true := by decide

theorem test_wf_default : Config.default.wellFormed = true := by decide

/-! ## Words of the spec (V10, V11, V12): every constructor, and what is refused -/

theorem test_decode_clear : decodeCommand 0x10000000#32 = .ok .clear := by decide

theorem test_decode_set_pixel : decodeCommand 0x20010017#32 = .ok (.setPixel 1 1 7) := by decide

theorem test_decode_set_pixel_ends : decodeCommand 0x2FFFFFF7#32 = .ok (.setPixel 4095 4095 7) := by decide

theorem test_decode_get_pixel : decodeCommand 0x30010010#32 = .ok (.getPixel 1 1) := by decide

theorem test_decode_refresh_once : decodeCommand 0x40000000#32 = .ok .refreshOnce := by decide

theorem test_decode_ignores_bit_3 : decodeCommand 0x2001001F#32 = .ok (.setPixel 1 1 7) := by decide

theorem test_decode_ignores_unused : decodeCommand 0x1ABCDEF7#32 = .ok .clear := by decide

theorem test_decode_opcode_0 : decodeCommand 0#32 = .error (.reservedOpcode 0) := by decide

theorem test_decode_opcode_5 : decodeCommand 0x50000000#32 = .error (.reservedOpcode 5) := by decide

theorem test_decode_opcode_f : decodeCommand 0xF0000001#32 = .error (.reservedOpcode 15) := by decide

theorem test_decode_wl_r1 : decodeUop 2 0x40000001#32 = .ok (.wl .r1 true) := by decide

theorem test_decode_wl_lat : decodeUop 2 0x4000000E#32 = .ok (.wl .lat false) := by decide

theorem test_decode_wl_oe : decodeUop 2 0x40000011#32 = .ok (.wl .oe true) := by decide

theorem test_decode_wl_lane_2 : decodeUop 2 0x4000000B#32 = .ok (.wl .b2 true) := by decide

theorem test_decode_wl_addr : decodeUop 5 0x40000029#32 = .ok (.wl (.addr 4) true) := by decide

theorem test_decode_wl_absent : decodeUop 2 0x40000024#32 = .error (.reservedLine 18) := by decide

theorem test_decode_wl_id_9 : decodeUop 12 0x40000012#32 = .error (.reservedLine 9) := by decide

theorem test_decode_wl_padding : decodeUop 2 0x40000200#32 = .error .paddingSet := by decide

theorem test_decode_slp : decodeUop 2 0x80000064#32 = .ok (.slp 100) := by decide

theorem test_decode_slp_longest : decodeUop 2 0xBFFFFFFF#32 = .ok (.slp 1073741823) := by decide

theorem test_decode_kind_0 : decodeUop 2 0#32 = .error (.reservedKind 0) := by decide

theorem test_decode_kind_3 : decodeUop 2 0xC0000000#32 = .error (.reservedKind 3) := by decide

theorem test_table_words :
    [0x10000000, 0x20010017, 0x30010010, 0x4FFFFFFF, 0x40000001, 0x80000064, 0xF0000000].map (decodeTableWord 32) =
    [some .clear, some (.setPixel 1 1 7), some (.getPixel 1 1), some .refreshOnce, some (.wl .r1 true),
      some (.slp 100), none] := by decide

/-- Log 10: no WL (line identifier 9 is reserved), and REFRESH_ONCE on the command port. -/
theorem test_table_word_reserved_line :
    decodeTableWord 32 0x40000012 = some .refreshOnce ∧ decodeTableWord 32 0x400001FF = some .refreshOnce := by decide

/-! ## The textual form (30_encoding.md R94, V10) -/

theorem test_assemble_set_pixel :
    assembleLine "set_pixel(1, 1, white)".toList = .command (.setPixel 1 1 7) := by decide

theorem test_assemble_hexadecimal :
    assembleLine "get_pixel(0xFFF, 0) # last row".toList = .command (.getPixel 4095 0) := by decide

theorem test_assemble_row_too_large : assembleLine "get_pixel(4096, 0)".toList = .error := by decide

theorem test_assemble_color_too_large : assembleLine "set_pixel(0, 0, 8)".toList = .error := by decide

/-! ## One step of each instruction -/

/-- Reset with these words on the port. -/
def idleWith (port : List Word) : State := { State.reset with port := port }

/-- Reset with the sequencer at step i of RowScan(a). -/
def busyAt (a i : Nat) : State := { State.reset with seq := .busy a i }

/-- V15, step 2. -/
theorem test_set_pixel : ∃ t, step (idleWith [0x20010017#32]) = .next t ∧ t.pixel 1 1 = 7#3 ∧ t.pixel 1 0 = 0#3 :=
  ⟨_, rfl, by decide, by decide⟩

/-- V15, steps 5 and 6, for TC2: col = C. -/
theorem test_set_pixel_ignored : ∃ t, step (idleWith [0x20010037#32]) = .next t ∧ t.fb = [] :=
  ⟨_, rfl, by decide⟩

/-- V15, step 7. -/
theorem test_get_pixel : ∃ t, step { idleWith [0x30000010#32] with fb := [(1, 4#3)] } = .next t ∧ t.resp = some 4#3 :=
  ⟨_, rfl, by decide⟩

/-- V15, step 8. -/
theorem test_clear_idle : ∃ t, step { idleWith [0x10000000#32] with fb := [(1, 4#3), (5, 7#3)] } = .next t ∧ t.fb = [] :=
  ⟨_, rfl, by decide⟩

/-- V17 with one cell: while a refresh is in progress CLEAR writes it in its first step. -/
theorem test_clear_busy : ∃ t, exec .clear
      { busyAt 0 3 with cfg := { Config.default with rows := 1, cols := 1 }, fb := [(0, 1#3)] } = .next t ∧ t.fb = [] ∧ t.clearing = [] := by
  refine ⟨_, rfl, ?_, ?_⟩ <;> simp [busyAt, State.clearOne, Config.cellCount, Nat.mod_one]
  decide

/-- V19. -/
theorem test_refresh_accepted : ∃ t, step (idleWith [0x4FFFFFFF#32]) = .next t ∧ t.seq = .busy 0 0 ∧ t.port = [] :=
  ⟨_, rfl, rfl, rfl⟩

/-- P5: held, and the word behind it waits; the sequencer moves. -/
theorem test_refresh_held : ∃ t, step { busyAt 0 3 with port := [0x40000000#32, 0x20000004#32], sched := [.host] } = .next t ∧
    t.seq = .busy 0 4 ∧ t.port = [0x40000000#32, 0x20000004#32] ∧ t.sched = [.host] :=
  ⟨_, rfl, rfl, rfl, rfl⟩

/-- V12, V20: the red write of magenta. -/
theorem test_wl : ∃ t, step { busyAt 0 4 with px := 5#3 } = .next t ∧ t.line.r1 = true ∧
    t.trace.map Event.word = [0x40000001#32] :=
  ⟨_, rfl, by decide, by decide⟩

/-- V31: with ADDR[0] at 0, after WL(ADDR[1],1) the lines read 2. -/
theorem test_wl_address : ∃ t, exec (.wl (.addr 1) true)
      { busyAt 2 2 with line := { Lines.defaultInit with addr := 0#12 } } = .next t ∧ addressOnLines 2 t.line = 2 :=
  ⟨_, rfl, by decide⟩

/-- V32: the row dwell, and the end of the frame (V19). -/
theorem test_slp : ∃ t, step (busyAt 3 38) = .next t ∧ t.trace.map Event.word = [0x80000064#32] ∧ t.seq = .idle :=
  ⟨_, rfl, by decide, rfl⟩

/-- READ(1, 2) of TC2. -/
theorem test_read_cell : ∃ t, step { busyAt 1 23 with fb := [(5, 6#3)] } = .next t ∧ t.px = 6#3 ∧ t.trace = [] :=
  ⟨_, rfl, by decide, rfl⟩

theorem test_reserved_word : step (idleWith [0x50000000#32]) = .refused (.reservedCommand 0x50000000#32) := rfl

theorem test_position_lost : step (busyAt 4 0) = .fault (.sequencerLost 4 0) := rfl

/-- A contested step goes to the agent the schedule names. -/
theorem test_schedule_host : ∃ t, step { busyAt 0 3 with port := [0x20000004#32], sched := [.host] } = .next t ∧
    t.seq = .busy 0 3 ∧ t.pixel 0 0 = 4#3 ∧ t.sched = [] :=
  ⟨_, rfl, rfl, by decide, rfl⟩

/-- Steps of the machine, for a whole small run. -/
def runSteps : Nat → State → Option State
  | 0, s => some s
  | k + 1, s =>
    match step s with
    | .next t => runSteps k t
    | .fault _ => none
    | .refused _ => none

/-- V40, word for word: one refresh of TC4 with its one cell red, from the acceptance on. -/
theorem test_refresh_words : (runSteps 18
      { State.resetWith { Config.default with rows := 1, cols := 1 } with fb := [(0, 1#3)], port := [0x40000000#32] }).map (fun t => t.trace.map Event.word) =
    some [0x40000011#32, 0x40000001#32, 0x40000002#32, 0x40000004#32, 0x4000000C#32, 0x80000001#32, 0x4000000D#32,
      0x80000001#32, 0x4000000C#32, 0x80000001#32, 0x4000000E#32, 0x4000000F#32, 0x80000001#32, 0x4000000E#32,
      0x40000010#32, 0x80000064#32] := by rfl

theorem test_colour_bits : colorOf true false true = 5#3 ∧ red 5#3 = true ∧ green 5#3 = false ∧ blue 5#3 = true := by
  decide

/-- V30, the row R = 32, a = 19. -/
theorem test_address_words : (setAddrEvents { Config.default with rows := 32 } 19).map Event.word =
    [0x40000021#32, 0x40000023#32, 0x40000024#32, 0x40000026#32, 0x40000029#32] := by decide

/-- V30: the address widths. -/
theorem test_address_widths : [1, 2, 3, 4, 5, 8, 9, 16, 17, 32, 4096].map addressWidth =
    [0, 1, 2, 2, 3, 3, 4, 4, 5, 5, 12] := by decide

/-! ## An instruction placed for the fetch is the one that the next step runs -/

theorem test_place_set_pixel : ∃ t, step (State.reset.withFetchWord 32 0x20010017) = .next t ∧ t.pixel 1 1 = 7#3 :=
  ⟨_, rfl, by decide⟩

theorem test_place_refresh : ∃ t, step ((busyAt 0 3).withFetchWord 32 0x4FFFFFFF) = .next t ∧ t.seq = .busy 0 0 :=
  ⟨_, rfl, rfl⟩

/-- Log 10: a word in WL's row whose line identifier is reserved runs as the port reads it. -/
theorem test_place_reserved_line : ∃ t, step ((busyAt 0 3).withFetchWord 32 0x40000012) = .next t ∧ t.seq = .busy 0 0 :=
  ⟨_, rfl, rfl⟩

/-- WL(ADDR[4],1) from the four rows of reset: the geometry grows to the least that has ADDR[4]. -/
theorem test_place_wl : ∃ t, step (State.reset.withFetchWord 32 0x40000029) = .next t ∧
    t.trace = [.write (.addr 4) true] :=
  ⟨_, rfl, rfl⟩

theorem test_place_slp : ∃ t, step (State.reset.withFetchWord 32 0x80000064) = .next t ∧ t.trace = [.delay 100] :=
  ⟨_, rfl, rfl⟩

/-! ## The hypotheses of the obligations can be met

One theorem for each obligation that has hypotheses, at the ends of their ranges. -/

/-- Every position of the default geometry is one of the invariant's states. -/
theorem busyAt_inv (a i : Nat) (h : positionInRange Config.default a i = true) : (busyAt a i).Inv :=
  { configured := test_wf_default, canonical := rfl, inside := by simp [busyAt, State.reset, State.resetWith], position := h,
    clearingOnce := List.nodup_nil, clearingInside := by simp [busyAt, State.reset, State.resetWith],
    addressLines := (by decide : Lines.defaultInit.addr.toNat < 2 ^ Config.default.aw), stages := rfl, outputs := rfl }

theorem busyAt_zero_follows (a : Nat) : (busyAt a 0).linesFollow := rowLines_zero _ _ _ _

/-- Reset with a refresh to start. -/
def refreshNext : State := idleWith [0x4FFFFFFF#32, 0x20000001#32]

theorem refreshNext_quiet : refreshNext.startsQuietRefresh :=
  { configured := by decide, idle := rfl, noClear := rfl, waits := rfl, command := ⟨_, _, rfl, by decide⟩ }

theorem witness_CommandWordsRoundTrip :
    Instr.isCommand .clear = true ∧ Instr.isCommand (.setPixel 4095 4095 7) = true ∧
    Instr.isCommand (.getPixel 0 4095) = true ∧ Instr.isCommand .refreshOnce = true := by decide

theorem witness_UopWordsRoundTrip :
    (Instr.isCommand (.wl (.addr 11) true) = false ∧ Instr.wellFormed 12 (.wl (.addr 11) true) = true) ∧
    (Instr.isCommand (.slp (2 ^ 30 - 1)) = false ∧ Instr.wellFormed 0 (.slp (2 ^ 30 - 1)) = true) := by decide

theorem witness_UopDecodingIsExact :
    decodeUop 12 0x40000037#32 = .ok (.wl (.addr 11) true) ∧ decodeUop 0 0xBFFFFFFF#32 = .ok (.slp 1073741823) := by
  decide

theorem witness_CommandDecoderFollowsOpcode :
    (0x1FFFFFFF#32).toNat / 2 ^ 28 = 1 ∧ (0x2FFFFFFF#32).toNat / 2 ^ 28 = 2 ∧ (0x30000000#32).toNat / 2 ^ 28 = 3 ∧
    (0x4FFFFFFF#32).toNat / 2 ^ 28 = 4 ∧ (0x0FFFFFFF#32).toNat / 2 ^ 28 = 0 ∧ 5 ≤ (0x50000000#32).toNat / 2 ^ 28 ∧
    5 ≤ (0xFFFFFFFF#32).toNat / 2 ^ 28 := by decide

theorem witness_UnusedBitsIgnored :
    decodeCommand 0x2001001F#32 = .ok (.setPixel 1 1 7) ∧
    0x20010017#32 &&& usedBits (.setPixel 1 1 7) = 0x2001001F#32 &&& usedBits (.setPixel 1 1 7) := by decide

theorem witness_AddressWidthIsLeast : (1 ≤ 2 ^ 0) ∧ (5 ≤ 2 ^ 3) ∧ (4096 ≤ 2 ^ 12) ∧ addressWidth 5 = 3 := by decide

theorem witness_AddressDriveHoldsRow :
    Config.default.wellFormed = true ∧ 0 < Config.default.rows ∧ 3 < Config.default.rows ∧ 1 < Config.default.aw ∧
    ∀ j, Line.oe ≠ .addr j := by
  refine ⟨by decide, by decide, by decide, by decide, by simp⟩

theorem witness_ClearWhileIdle :
    State.reset.seq = .idle ∧ State.reset.cfg.inBounds 3 2 = true ∧ State.reset.cfg.cellCount ≤ 12 := by decide

theorem witness_ClearWhileBusy : (busyAt 3 38).cfg.wellFormed = true ∧ (busyAt 3 38).seq = .busy 3 38 := by decide

/-- With a refresh in progress and the host named by the schedule, and with one cell left and no refresh. -/
theorem witness_ClearContinues :
    (let s : State := { busyAt 0 3 with clearing := [0, 11], sched := [.host] }
     s.cfg.wellFormed = true ∧ s.clearing ≠ [] ∧ s.clearing.Nodup ∧ s.hostMoves) ∧
    (let s : State := { State.reset with clearing := [11] }
     s.cfg.wellFormed = true ∧ s.clearing ≠ [] ∧ s.clearing.Nodup ∧ s.hostMoves) := by
  refine ⟨⟨by decide, by decide, by decide, rfl, Or.inr rfl⟩, by decide, by decide, by decide, rfl, Or.inl rfl⟩

theorem witness_ClearRunsToItsEnd :
    (let s : State := { State.reset with clearing := [0, 11] }
     s.cfg.wellFormed = true ∧ s.seq = .idle ∧ s.clearing.length = 2) := by decide

theorem witness_ClearIsIdempotent :
    (let s : State := { State.reset with fb := [(0, 1#3), (11, 7#3)] }
     s.seq = .idle ∧ s.fb.wf = true ∧ s.cfg.inBounds (3#12).toNat (2#12).toNat = true) := by decide

theorem witness_SetPixelWritesItsCell :
    State.reset.cfg.inBounds (0#12).toNat (0#12).toNat = true ∧
    State.reset.cfg.inBounds (3#12).toNat (2#12).toNat = true := by decide

theorem witness_SetPixelOutOfBoundsIgnored :
    (State.reset.cfg.rows ≤ (4#12).toNat ∨ State.reset.cfg.cols ≤ (0#12).toNat) ∧
    (State.reset.cfg.rows ≤ (0#12).toNat ∨ State.reset.cfg.cols ≤ (3#12).toNat) := by decide

theorem witness_GetPixelAnswersItsCell :
    (busyAt 0 0).cfg.inBounds (0#12).toNat (0#12).toNat = true ∧
    (busyAt 0 0).cfg.inBounds (3#12).toNat (2#12).toNat = true := by decide

theorem witness_GetPixelOutOfBoundsCompletes :
    (State.reset.cfg.rows ≤ (4#12).toNat ∨ State.reset.cfg.cols ≤ (0#12).toNat) ∧
    (State.reset.cfg.rows ≤ (0#12).toNat ∨ State.reset.cfg.cols ≤ (4095#12).toNat) := by decide

theorem witness_SetThenGetReturnsColour :
    (busyAt 0 0).cfg.inBounds (3#12).toNat (2#12).toNat = true := by decide

theorem witness_RefreshAcceptedAtIdle : State.reset.seq = .idle := rfl

theorem witness_RefreshHeldWhileBusy : (busyAt 3 38).seq = .busy 3 38 := rfl

/-- Held at the last step of a frame, and accepted at Idle. -/
theorem witness_HeldRefreshWaitsForIdle :
    (let s : State := { busyAt 3 38 with port := [0x40000000#32] }
     s.Inv ∧ s.clearing = [] ∧ s.port = 0x40000000#32 :: [] ∧ decodeCommand 0x40000000#32 = .ok .refreshOnce ∧
       s.seq = .busy 3 38) ∧
    (let s : State := idleWith [0x40000000#32]
     s.Inv ∧ s.clearing = [] ∧ s.port = 0x40000000#32 :: [] ∧ s.seq = .idle) := by
  refine ⟨⟨?_, rfl, rfl, by decide, rfl⟩, ?_, rfl, rfl, rfl⟩
  · obtain ⟨a, b, c, d, e, f, g, h, i⟩ := busyAt_inv 3 38 (by decide)
    exact ⟨a, b, c, d, e, f, g, h, i⟩
  · obtain ⟨a, b, c, d, e, f, g, h, i⟩ := busyAt_inv 0 0 (by decide)
    exact ⟨a, b, c, rfl, e, f, g, h, i⟩

theorem witness_WlSetsItsLine :
    Line.present State.reset.cfg.aw (.addr 1) = true ∧ Line.present State.reset.cfg.aw .oe = true := by decide

theorem witness_WlOnAbsentLineRefused :
    Line.present State.reset.cfg.aw (.addr 2) = false ∧ Line.present 4096 (.addr 12) = false := by decide

theorem witness_RedundantWriteIsSilent :
    Line.present State.reset.cfg.aw .oe = true ∧ getLine State.reset.line .oe = true := by decide

/-- A store command during a refresh, its turn given by the schedule, and REFRESH_ONCE at Idle. -/
theorem witness_StepRunsPresentedCommand :
    (let s : State := { busyAt 0 3 with port := [0x20010017#32], sched := [.host] }
     s.cfg.wellFormed = true ∧ s.clearing = [] ∧ s.port = 0x20010017#32 :: [] ∧
       decodeCommand 0x20010017#32 = .ok (.setPixel 1 1 7) ∧ s.accepts (.setPixel 1 1 7) = true ∧ s.hostMoves) ∧
    (let s : State := refreshNext
     s.cfg.wellFormed = true ∧ s.clearing = [] ∧ s.port = 0x4FFFFFFF#32 :: [0x20000001#32] ∧
       decodeCommand 0x4FFFFFFF#32 = .ok .refreshOnce ∧ s.accepts .refreshOnce = true ∧ s.hostMoves) := by
  refine ⟨⟨by decide, rfl, rfl, by decide, rfl, rfl, Or.inr rfl⟩, by decide, rfl, rfl, by decide, rfl, rfl, Or.inl rfl⟩

theorem witness_StepRefusesReservedWord :
    (let s : State := idleWith [0x50000000#32]
     s.cfg.wellFormed = true ∧ s.clearing = [] ∧ s.port = 0x50000000#32 :: [] ∧
       decodeCommand 0x50000000#32 = .error (.reservedOpcode 5) ∧ s.hostMoves) := by
  refine ⟨by decide, rfl, rfl, by decide, rfl, Or.inl rfl⟩

/-- The last entry of the last row, with a store command waiting that the schedule does not name. -/
theorem witness_StepRunsSequencerEntry :
    let s : State := { busyAt 3 38 with port := [0x20010017#32] }
    s.cfg.wellFormed = true ∧ s.seq = .busy 3 38 ∧ positionInRange s.cfg 3 38 = true ∧ s.sequencerMoves ∧
      rowStep s.cfg s.px 3 38 = .issue (.slp 100) ∧
      ∃ t, exec (.slp 100) { s with resp := none, sched := if s.hostReady then s.sched.tail else s.sched } = .next t := by
  refine ⟨by decide, rfl, by decide, ⟨rfl, Or.inr (by decide)⟩, rfl, _, rfl⟩

theorem witness_StepReadsCell :
    (let s : State := busyAt 0 (Config.default.columnBase 0)
     s.cfg.wellFormed = true ∧ s.seq = .busy 0 (s.cfg.columnBase 0) ∧ 0 < s.cfg.rows ∧ 0 < s.cfg.cols ∧
       s.sequencerMoves) ∧
    (let s : State := busyAt 3 (Config.default.columnBase 2)
     s.cfg.wellFormed = true ∧ s.seq = .busy 3 (s.cfg.columnBase 2) ∧ 3 < s.cfg.rows ∧ 2 < s.cfg.cols ∧
       s.sequencerMoves) := by
  refine ⟨⟨by decide, rfl, by decide, by decide, rfl, Or.inl rfl⟩, by decide, rfl, by decide, by decide, rfl, Or.inl rfl⟩

theorem witness_RowScanEntries :
    0 < Config.default.aw ∧ 1 < Config.default.aw ∧ 0 < Config.default.cols ∧ 2 < Config.default.cols ∧
    23 = 1 + Config.default.aw + 10 * 2 ∧ 33 = 1 + Config.default.aw + 10 * Config.default.cols := by decide

theorem witness_RowScanIgnoresData : 0 < Config.default.rowLength ∧ 38 < Config.default.rowLength := by decide

theorem witness_SequencerIssuesLegalWords :
    Config.default.wellFormed = true ∧ 38 < Config.default.rowLength ∧ Config.default.tPre < 2 ^ 30 ∧
    Config.default.tHigh < 2 ^ 30 ∧ Config.default.tLow < 2 ^ 30 ∧ Config.default.tLat < 2 ^ 30 ∧
    Config.default.tDwell < 2 ^ 30 ∧ rowStep Config.default 0#3 3 38 = .issue (.slp 100) ∧
    rowStep Config.default 0#3 3 2 = .issue (.wl (.addr 1) true) := by decide

/-- Inside a row, at the end of a row, at the end of the last row. -/
theorem witness_SequencerAlwaysAdvances :
    ((busyAt 0 37).Inv ∧ (busyAt 0 37).seq = .busy 0 37 ∧ (busyAt 0 37).sequencerMoves) ∧
    ((busyAt 2 38).Inv ∧ (busyAt 2 38).seq = .busy 2 38 ∧ (busyAt 2 38).sequencerMoves) ∧
    ((busyAt 3 38).Inv ∧ (busyAt 3 38).seq = .busy 3 38 ∧ (busyAt 3 38).sequencerMoves) :=
  ⟨⟨busyAt_inv _ _ (by decide), rfl, rfl, Or.inl rfl⟩, ⟨busyAt_inv _ _ (by decide), rfl, rfl, Or.inl rfl⟩,
    busyAt_inv _ _ (by decide), rfl, rfl, Or.inl rfl⟩

theorem witness_MisconfiguredNotLaunched :
    (State.resetWith { Config.default with rows := 0 }).cfg.rows = 0 ∧
    4096 < (State.resetWith { Config.default with rows := 4097 }).cfg.rows ∧
    (State.resetWith { Config.default with cols := 0 }).cfg.cols = 0 ∧
    4096 < (State.resetWith { Config.default with cols := 4097 }).cfg.cols := by decide

theorem witness_FinishedRunRests : State.reset.cfg.wellFormed = true ∧ State.reset.finished = true := by decide

theorem witness_LaunchMeetsInvariants : Config.default.wellFormed = true ∧ State.reset.Fresh := by
  refine ⟨by decide, ?_⟩
  constructor <;> decide

/-- A step of the host, and the last step of the sequencer. -/
theorem witness_StepKeepsInvariant :
    (refreshNext.Inv ∧ ∃ t, step refreshNext = .next t) ∧ (busyAt 3 38).Inv ∧ ∃ t, step (busyAt 3 38) = .next t := by
  refine ⟨⟨?_, _, rfl⟩, busyAt_inv _ _ (by decide), _, rfl⟩
  obtain ⟨a, b, c, d, e, f, g, h, i⟩ := busyAt_inv 0 0 (by decide)
  exact ⟨a, b, c, rfl, e, f, g, h, i⟩

theorem witness_StepKeepsLinesFollow :
    (busyAt 3 0).linesFollow ∧ ∃ t, step (busyAt 3 0) = .next t :=
  ⟨busyAt_zero_follows 3, _, rfl⟩

theorem witness_StepKeepsTraceExplains :
    State.traceExplains (busyAt 3 0) ∧ ∃ t, step (busyAt 3 0) = .next t :=
  ⟨⟨rfl, rfl⟩, _, rfl⟩

/-- The last dwell of a frame: the lines as they stand there. -/
def lastDwell : State := { busyAt 3 38 with line := { Lines.defaultInit with oe := false, addr := 3#12 }, px := 0#3 }

theorem lastDwell_follows : lastDwell.linesFollow := by
  change RowLines Config.default { Lines.defaultInit with oe := false, addr := 3#12 } 0#3 3 38
  constructor
  · intro _; decide
  · intro j hj _
    have hj : j < 2 := hj
    interval_cases j <;> decide
  · intro col j hc hj h
    have hc : col < 3 := hc
    have h : 38 = 1 + 2 + 10 * col + j := h
    omega
  · intro j hj h
    have h : 38 = 1 + 2 + 10 * 3 + j := h
    obtain rfl : j = 5 := by omega
    constructor <;> intros <;> first | rfl | omega

/-- The step that takes OE inactive again, and the dwell. -/
theorem witness_NoLineMovesWhileEnabled :
    (let s : State := { busyAt 1 0 with line := { Lines.defaultInit with oe := false } }
     s.linesFollow ∧ getLine s.line .oe = false ∧ ∃ t, step s = .next t) ∧
    (lastDwell.linesFollow ∧ getLine lastDwell.line .oe = false ∧ ∃ t, step lastDwell = .next t) :=
  ⟨⟨rowLines_zero _ _ _ _, rfl, _, rfl⟩, lastDwell_follows, rfl, _, rfl⟩

/-- The address drive of row 1, and the rising edge of LAT. -/
theorem witness_PanelMovesOnlyInTheDark :
    ((busyAt 1 1).linesFollow ∧ ∃ t, step (busyAt 1 1) = .next t ∧ t.line.addr ≠ (busyAt 1 1).line.addr) ∧
    (let s : State := { busyAt 0 34 with px := 0#3, panel := { sr := [some 1, some 2, some 3], latched := [] } }
     s.linesFollow ∧ ∃ t, step s = .next t ∧ t.panel ≠ s.panel) := by
  refine ⟨⟨?_, _, rfl, by decide⟩, ?_, _, rfl, by decide⟩
  · change RowLines Config.default Lines.defaultInit Config.pxAtReset 1 1
    constructor
    · intro _; decide
    · intro j _ h; omega
    · intro col j _ _ h
      have h : 1 = 1 + 2 + 10 * col + j := h
      omega
    · intro j _ h
      have h : 1 = 1 + 2 + 10 * 3 + j := h
      omega
  · change RowLines Config.default Lines.defaultInit 0#3 0 34
    constructor
    · intro _; decide
    · intro j hj _
      have hj : j < 2 := hj
      interval_cases j <;> decide
    · intro col j hc hj h
      have hc : col < 3 := hc
      have h : 34 = 1 + 2 + 10 * col + j := h
      omega
    · intro j hj h
      have h : 34 = 1 + 2 + 10 * 3 + j := h
      obtain rfl : j = 1 := by omega
      constructor <;> intros <;> first | rfl | omega

theorem witness_HostNeverDrivesLines :
    let s : State := { busyAt 0 3 with port := [0x20010017#32], sched := [.host] }
    s.hostMoves ∧ s.busy = true ∧ ∃ t, step s = .next t :=
  ⟨⟨rfl, Or.inr rfl⟩, rfl, _, rfl⟩

theorem witness_SequencerOnlyReadsFramebuffer :
    (busyAt 0 3).sequencerMoves ∧ ∃ t, step (busyAt 0 3) = .next t :=
  ⟨⟨rfl, Or.inl rfl⟩, _, rfl⟩

theorem witness_LaneTwoAndParametersFixed : ∃ t, step (busyAt 0 4) = .next t := ⟨_, rfl⟩

theorem witness_TraceOnlyGrows : ∃ t, step (busyAt 0 4) = .next t := ⟨_, rfl⟩

theorem witness_BusyRisesAndFalls :
    (∃ t, step refreshNext = .next t ∧ refreshNext.busy = false ∧ t.busy = true) ∧
    ∃ t, step (busyAt 3 38) = .next t ∧ (busyAt 3 38).busy = true ∧ t.busy = false :=
  ⟨⟨_, rfl, rfl, rfl⟩, _, rfl, rfl, rfl⟩

/-- The last dwell, READ(3, 2), and PX held right after that READ and at the last dwell. -/
theorem witness_LinesWhenBusyFalls :
    (lastDwell.linesFollow ∧ lastDwell.busy = true ∧ 1 < lastDwell.cfg.aw ∧
      ∃ t, step lastDwell = .next t ∧ t.busy = false) ∧
    (let s : State := { busyAt 3 23 with fb := [(11, 6#3)] }
     s.seq = .busy (s.cfg.rows - 1) (s.cfg.columnBase (s.cfg.cols - 1)) ∧ s.sequencerMoves ∧
       ∃ t, step s = .next t ∧ t.px = 6#3) ∧
    (let s : State := { busyAt 3 24 with px := 6#3 }
     s.holdsLastRead 6#3 ∧ ∃ t, step s = .next t ∧ t.holdsLastRead 6#3) ∧
    (lastDwell.holdsLastRead 0#3 ∧ ∃ t, step lastDwell = .next t ∧ t.busy = false ∧ t.px = 0#3) :=
  ⟨⟨lastDwell_follows, rfl, by decide, _, rfl, rfl⟩, ⟨rfl, ⟨rfl, Or.inl rfl⟩, _, rfl, by decide⟩,
    ⟨⟨rfl, 24, by decide, by decide, rfl⟩, _, rfl, rfl, 25, by decide, by decide, rfl⟩,
    ⟨rfl, 38, by decide, by decide, rfl⟩, _, rfl, rfl, rfl⟩

/-- A refresh of a black framebuffer with one event before it, at its first step and at its last. -/
theorem witness_StepKeepsRendering :
    (let s : State := { busyAt 0 0 with trace := [.delay 7] }
     s.rendering [.delay 7] ∧ ∃ t, step s = .next t ∧ t.fb = s.fb) ∧
    (let s : State := { busyAt 3 38 with trace := .delay 7 :: eventsBefore Config.default [] 3 38 }
     s.rendering [.delay 7] ∧ ∃ t, step s = .next t ∧ t.fb = s.fb) := by
  refine ⟨⟨⟨by decide, rfl, ?_⟩, _, rfl, rfl⟩, ⟨by decide, rfl, ?_⟩, _, rfl, rfl⟩
  · intro col j _ _ _ h
    have h : 0 = 1 + 2 + 10 * col + j := h
    omega
  · intro col j hc _ _ h
    have hc : col < 3 := hc
    have h : 38 = 1 + 2 + 10 * col + j := h
    omega

theorem witness_PanelHoldsRowAfterRow :
    0 < Config.default.cols ∧ 0 < (Config.cols { Config.default with cols := 1 }) := by decide

theorem witness_RefreshRendersFrame : refreshNext.startsQuietRefresh := refreshNext_quiet

theorem witness_RefreshLeavesLines : refreshNext.startsQuietRefresh ∧ 1 < refreshNext.cfg.aw :=
  ⟨refreshNext_quiet, by decide⟩

theorem witness_EveryRowIsShown :
    refreshNext.startsQuietRefresh ∧ 0 < refreshNext.cfg.rows ∧ 3 < refreshNext.cfg.rows :=
  ⟨refreshNext_quiet, by decide, by decide⟩

theorem witness_RefreshLeavesLastRowShown : refreshNext.startsQuietRefresh := refreshNext_quiet

theorem witness_RefreshLastsAtLeast : refreshNext.startsQuietRefresh := refreshNext_quiet

end Sys2Proof.Tests
end

/-! The width of the row address and the launch of a misconfigured system (00_scope.md R8, 70_reset_and_hazards.md
R263). -/

namespace Sys2Proof

/-- The width's defining property as one equivalence: that it is enough and that it is least are its two directions. -/
theorem addressWidth_le_iff {rows n : Nat} : addressWidth rows ≤ n ↔ rows ≤ 2 ^ n := by
  unfold addressWidth
  split
  case isTrue hsmall =>
    have hpow : 1 ≤ 2 ^ n := Nat.one_le_two_pow
    omega
  case isFalse hlarge =>
    have hlog : Nat.log2 (rows - 1) < n ↔ rows - 1 < 2 ^ n := Nat.log2_lt (by omega)
    omega

/-- Settles O8: the two directions of `addressWidth_le_iff`, the first at the width itself. -/
theorem addressWidthIsLeast : Obligations.AddressWidthIsLeast := by
  intro rows
  exact ⟨addressWidth_le_iff.1 le_rfl, fun _ => addressWidth_le_iff.2⟩

/-- R8's constraints on R and C, from the side of a configuration that breaks one. -/
theorem Config.wellFormed_eq_false_of_size {c : Config}
    (h : c.rows = 0 ∨ 4096 < c.rows ∨ c.cols = 0 ∨ 4096 < c.cols) : c.wellFormed = false := by
  refine Bool.eq_false_iff.2 fun hw => ?_
  obtain ⟨hrows, hrows', hcols, hcols', -⟩ := c.wellFormed_iff.1 hw
  omega

end Sys2Proof

namespace Sys2Proof.Machine

/-- Beside `step_of_host` and `step_of_sequencer`: the branch of the step that asks no agent for a move (log 14). -/
theorem step_of_misconfigured {s : State} (hw : s.cfg.wellFormed = false) : step s = .refused .misconfigured := by
  simp [step, stepOf, hw]

/-- Settles O35: such an R or C breaks the premise Configured, and then the step is refused. -/
theorem misconfiguredNotLaunched : Obligations.MisconfiguredNotLaunched :=
  fun _ hsize => step_of_misconfigured (Config.wellFormed_eq_false_of_size hsize)

end Sys2Proof.Machine

/-! What every step keeps (10_state.md): what the host's steps and the sequencer's steps leave alone, the invariant of
the state, when BUSY changes, and the states a run starts from. -/

namespace Sys2Proof.Machine

/-! ## The host's steps -/

/-- The command port reads host commands only (30_encoding.md R82, R89). -/
theorem decodeCommand_isCommand {w : Word} {i : Instr} (h : decodeCommand w = .ok i) : i.isCommand = true := by
  unfold decodeCommand at h
  split_ifs at h <;> cases h <;> rfl

theorem StoreFrame.refl (s : State) : StoreFrame s s := by
  constructor <;> rfl

theorem clearOne_storeFrame (s : State) : StoreFrame s (s.clearOne.elapse 0) := by
  constructor <;> simp

theorem execClear_storeFrame {s t : State} (h : execClear s = .next t) : StoreFrame s t := by
  rcases execClear_cases s with ⟨-, e⟩ | ⟨-, e⟩ <;> rw [e] at h <;> cases h
  · constructor <;> rfl
  · constructor <;> simp

theorem execSetPixel_storeFrame {row col : Coord} {k : Color} {s t : State} (h : execSetPixel row col k s = .next t) :
    StoreFrame s t := by
  rcases execSetPixel_cases row col k s with ⟨-, e⟩ | ⟨-, e⟩ <;> rw [e] at h <;> cases h <;> constructor <;> rfl

theorem execGetPixel_storeFrame {row col : Coord} {s t : State} (h : execGetPixel row col s = .next t) :
    StoreFrame s t := by
  rcases execGetPixel_cases row col s with ⟨-, e⟩ | ⟨-, e⟩ <;> rw [e] at h <;> cases h <;> constructor <;> rfl

/-- A command leaves LINE, SEQ and PX alone (40_framebuffer_store.md R118), save a REFRESH_ONCE at Idle
(41_gpio_protocol_sequencer.md R130); one that is held changes nothing (60_exceptions.md R238). -/
theorem exec_command_cases {i : Instr} {s t : State} (hi : i.isCommand = true) (h : exec i s = .next t) :
    StoreFrame s t ∨ (i = .refreshOnce ∧ s.busy = false ∧ t = { s with seq := .busy 0 0 }.elapse 0) := by
  cases i with
  | clear => exact .inl (execClear_storeFrame h)
  | setPixel row col k => exact .inl (execSetPixel_storeFrame h)
  | getPixel row col => exact .inl (execGetPixel_storeFrame h)
  | refreshOnce =>
    rw [exec] at h
    rcases execRefreshOnce_cases s with ⟨hb, e⟩ | ⟨-, e⟩ <;> rw [e] at h <;> cases h
    · exact .inr ⟨rfl, hb, rfl⟩
    · exact .inl (.refl s)
  | wl l v => cases hi
  | slp n => cases hi

/-- What no step of the host changes (10_state.md R28, R30, 60_exceptions.md R242). -/
structure HostFrame (s t : State) : Prop where
  cfg : t.cfg = s.cfg
  line : t.line = s.line
  px : t.px = s.px
  trace : t.trace = s.trace
  panel : t.panel = s.panel

theorem StoreFrame.hostFrame {s t : State} (h : StoreFrame s t) : HostFrame s t :=
  ⟨h.cfg, h.line, h.px, h.trace, h.panel⟩

/-- The one step of the host that moves SEQ: it takes a REFRESH_ONCE off the port at Idle
(41_gpio_protocol_sequencer.md R130). -/
structure RefreshAccepted (s t : State) : Prop where
  idle : s.busy = false
  started : t.seq = .busy 0 0
  command : ∃ w rest, s.port = w :: rest ∧ decodeCommand w = .ok .refreshOnce ∧ t.port = rest

theorem hostStep_frame {s t : State} (h : hostStep s = .next t) : HostFrame s t := by
  rcases hostStep_cases h with ⟨-, rfl⟩ | ⟨-, -, rfl⟩ | ⟨-, w, rest, i, -, hi, he⟩
  · exact (clearOne_storeFrame s).hostFrame
  · exact (StoreFrame.refl t).hostFrame
  · rcases exec_command_cases (decodeCommand_isCommand hi) he with hf | ⟨-, -, rfl⟩
    · obtain ⟨hcfg, hline, hpx, htrace, hpanel⟩ := hf.hostFrame
      exact ⟨hcfg, hline, hpx, htrace, hpanel⟩
    · constructor <;> rfl

theorem hostStep_seq {s t : State} (h : hostStep s = .next t) : t.seq = s.seq ∨ RefreshAccepted s t := by
  rcases hostStep_cases h with ⟨-, rfl⟩ | ⟨-, -, rfl⟩ | ⟨-, w, rest, i, hp, hi, he⟩
  · exact .inl (clearOne_storeFrame s).seq
  · exact .inl rfl
  · rcases exec_command_cases (decodeCommand_isCommand hi) he with hf | ⟨rfl, hb, rfl⟩
    · exact .inl hf.seq
    · exact .inr ⟨hb, rfl, w, rest, hp, hi, by simp [hp]⟩

theorem step_host_frame {s t : State} (ht : s.turn = some .host) (h : step s = .next t) : HostFrame s t := by
  rw [step_of_host (step_cases h).1 ht] at h
  obtain ⟨hcfg, hline, hpx, htrace, hpanel⟩ := hostStep_frame h
  exact ⟨hcfg, hline, hpx, htrace, hpanel⟩

theorem step_host_seq {s t : State} (ht : s.turn = some .host) (h : step s = .next t) :
    t.seq = s.seq ∨ RefreshAccepted s t := by
  rw [step_of_host (step_cases h).1 ht] at h
  rcases hostStep_seq h with hseq | ⟨hidle, hstart, hcommand⟩
  · exact .inl hseq
  · exact .inr ⟨hidle, hstart, hcommand⟩

/-- Settles O44: the frame of the host's steps, and that the one step of the host which moves SEQ begins at Idle. -/
theorem hostNeverDrivesLines : Obligations.HostNeverDrivesLines := by
  intro s t hmoves h
  have ht := s.turn_host_iff.2 hmoves
  obtain ⟨-, hline, hpx, htrace, hpanel⟩ := step_host_frame ht h
  refine ⟨hline, htrace, hpanel, hpx, fun hbusy => ?_⟩
  rcases step_host_seq ht h with hseq | hstart
  · exact hseq
  · exact absurd hbusy (by simp [hstart.idle])

/-! ## The cells -/

/-- The part of the invariant that speaks of cells: FB in canonical form and inside the grid (10_state.md R22), the
cells of a CLEAR in progress in bounds and once each (40_framebuffer_store.md R111). -/
structure CellsInv (c : Config) (fb : Memory) (clearing : List Nat) : Prop where
  canonical : fb.wf = true
  inside : ∀ e ∈ fb, e.1 < c.cellCount
  once : clearing.Nodup
  clearingInside : ∀ k ∈ clearing, k < c.cellCount

theorem State.Inv.cells {s : State} (h : s.Inv) : CellsInv s.cfg s.fb s.clearing :=
  ⟨h.canonical, h.inside, h.clearingOnce, h.clearingInside⟩

section CellsInv

variable {c : Config} {fb : Memory} {clearing : List Nat}

theorem CellsInv.write (h : CellsInv c fb clearing) {k : Nat} (hk : k < c.cellCount) (v : Color) :
    CellsInv c (fb.write k v) clearing :=
  ⟨Memory.write_wf h.canonical k v, Memory.write_inside h.inside hk v, h.once, h.clearingInside⟩

theorem CellsInv.clear (h : CellsInv c fb clearing) (n : Nat) : CellsInv c (fb.clear n) clearing :=
  ⟨Memory.clear_wf h.canonical n, fun e he => h.inside e (Memory.clear_subset fb n e he), h.once, h.clearingInside⟩

/-- A CLEAR accepted during a refresh has every cell to write. -/
theorem CellsInv.clearAll (h : CellsInv c fb clearing) : CellsInv c fb (List.range c.cellCount) :=
  ⟨h.canonical, h.inside, List.nodup_range, fun _ => List.mem_range.1⟩

/-- A cell may be taken off the list of a CLEAR in progress. -/
theorem CellsInv.eraseIdx (h : CellsInv c fb clearing) (i : Nat) : CellsInv c fb (clearing.eraseIdx i) :=
  ⟨h.canonical, h.inside, h.once.sublist (List.eraseIdx_sublist _ _),
    fun k hk => h.clearingInside k (List.mem_of_mem_eraseIdx hk)⟩

end CellsInv

theorem clearOne_keeps_cells {s : State} (h : CellsInv s.cfg s.fb s.clearing) :
    CellsInv s.clearOne.cfg s.clearOne.fb s.clearOne.clearing := by
  rcases s.clearOne_cases with ⟨-, e⟩ | ⟨i, k, hk, e⟩
  · rwa [e]
  · rw [e]
    exact (h.eraseIdx i).write (h.clearingInside k (List.mem_of_getElem? hk)) _

/-- Every command keeps the framebuffer inside its grid: SET_PIXEL writes only in bounds (R113, R114). -/
theorem exec_command_keeps_cells {i : Instr} {s t : State} (hi : i.isCommand = true) (h : exec i s = .next t)
    (hs : CellsInv s.cfg s.fb s.clearing) : CellsInv t.cfg t.fb t.clearing := by
  cases i with
  | clear =>
    rw [exec] at h
    rcases execClear_cases s with ⟨-, e⟩ | ⟨-, e⟩ <;> rw [e] at h <;> cases h
    · exact hs.clear _
    · exact clearOne_keeps_cells (s := { s with clearing := List.range s.cfg.cellCount }) hs.clearAll
  | setPixel row col k =>
    rw [exec] at h
    rcases execSetPixel_cases row col k s with ⟨hin, e⟩ | ⟨-, e⟩ <;> rw [e] at h <;> cases h
    · exact hs.write (Config.cellIndex_lt hin) k
    · exact hs
  | getPixel row col =>
    rw [exec] at h
    rcases execGetPixel_cases row col s with ⟨-, e⟩ | ⟨-, e⟩ <;> rw [e] at h <;> cases h <;> exact hs
  | refreshOnce =>
    rw [exec] at h
    rcases execRefreshOnce_cases s with ⟨-, e⟩ | ⟨-, e⟩ <;> rw [e] at h <;> cases h <;> exact hs
  | wl l v => cases hi
  | slp n => cases hi

theorem hostStep_keeps_cells {s t : State} (h : hostStep s = .next t) (hs : CellsInv s.cfg s.fb s.clearing) :
    CellsInv t.cfg t.fb t.clearing := by
  rcases hostStep_cases h with ⟨-, rfl⟩ | ⟨-, -, rfl⟩ | ⟨-, w, rest, i, -, hi, he⟩
  · exact clearOne_keeps_cells hs
  · exact hs
  · exact exec_command_keeps_cells (s := s.takeWord) (decodeCommand_isCommand hi) he hs

/-- Settles O45: a step of the sequencer, whichever entry of RowScan it performs, leaves what the host sees alone. -/
theorem sequencerOnlyReadsFramebuffer : Obligations.SequencerOnlyReadsFramebuffer := by
  intro s t hmoves h
  obtain ⟨_, _, -, -, -, -, hfb, hclearing, hport, hresp, hresponses, -⟩ :=
    step_sequencer_cases (s.turn_sequencer_iff.2 hmoves) h
  exact ⟨fun k => by rw [hfb], hclearing, hport, hresp, hresponses⟩

/-! ## The position, the address lines and the panel -/

theorem seqInRange_start {c : Config} (hw : c.wellFormed = true) : seqInRange c (.busy 0 0) = true := by
  obtain ⟨hrows, -⟩ := c.wellFormed_iff.1 hw
  exact (positionInRange_iff c 0 0).2 ⟨hrows, by unfold Config.rowLength; omega⟩

/-- The position stays in its range (10_state.md R23): a never reaches R, i never reaches L. -/
theorem seqInRange_advanceSeq {c : Config} {a i : Nat} (h : positionInRange c a i = true) :
    seqInRange c (advanceSeq c a i) = true := by
  obtain ⟨ha, hi⟩ := (positionInRange_iff c a i).1 h
  unfold advanceSeq
  split_ifs with hnext hrow
  · exact (positionInRange_iff c a (i + 1)).2 ⟨ha, hnext⟩
  · exact (positionInRange_iff c (a + 1) 0).2 ⟨hrow, by omega⟩
  · rfl

/-- The address lines hold a number below 2^AW exactly when no line from AW on is at 1. -/
theorem addr_lt_iff (v : BitVec 12) (aw : Nat) : v.toNat < 2 ^ aw ↔ ∀ j, aw ≤ j → v.getLsbD j = false := by
  constructor
  · intro h j hj
    exact Nat.testBit_lt_two_pow (h.trans_le (Nat.pow_le_pow_right two_pos hj))
  · exact Nat.lt_pow_two_of_testBit _

/-- A write of a line that exists gives no level to an address line that does not (10_state.md R26). -/
theorem setLine_addr_lt {ln : Lines} {l : Line} {aw : Nat} (v : Level) (hp : l.present aw = true)
    (h : ln.addr.toNat < 2 ^ aw) : (setLine ln l v).addr.toNat < 2 ^ aw := by
  by_cases hl : ∃ i, l = .addr i
  · obtain ⟨i, rfl⟩ := hl
    rw [addr_lt_iff] at h ⊢
    intro j hj
    have hi : i < aw := by simp only [Line.present, Bool.and_eq_true, decide_eq_true_eq] at hp; exact hp.1
    rw [setLine, getLsbD_setAddressBit, if_neg (by omega), h j hj]
  · rwa [setLine_addr_other ln l v (by simpa using hl)]

/-- What a line write does to the panel: an edge of CLK, an edge of LAT, or nothing (45_panel_observer.md R212,
R214). -/
theorem Panel.onWrite_cases (cols : Nat) (p : Panel) (ln : Lines) (l : Line) (v : Level) :
    p.onWrite cols ln l v = p ∨ p.onWrite cols ln l v = p.shift cols ln ∨ p.onWrite cols ln l v = p.latch := by
  unfold Panel.onWrite
  cases l with
  | clk => dsimp only; split_ifs <;> simp
  | lat => dsimp only; split_ifs <;> simp
  | _ => exact .inl rfl

/-- Both registers of the panel have C stages (45_panel_observer.md R211). -/
structure Panel.HasStages (cols : Nat) (p : Panel) : Prop where
  stages : p.sr.length = cols
  outputs : p.latched.length = cols

theorem Panel.HasStages.onWrite {cols : Nat} {p : Panel} (h : p.HasStages cols) (ln : Lines) (l : Line) (v : Level) :
    (p.onWrite cols ln l v).HasStages cols := by
  rcases p.onWrite_cases cols ln l v with e | e | e <;> rw [e]
  · exact h
  · exact ⟨by simp [Panel.shift, h.stages], h.outputs⟩
  · exact ⟨h.stages, h.stages⟩

/-! ## The invariant of the state -/

theorem beginStep_keeps_inv {s : State} (h : s.Inv) : s.beginStep.Inv := by
  obtain ⟨hw, hcanonical, hinside, hpos, honce, hclearing, haddr, hstages, houtputs⟩ := h
  exact ⟨hw, hcanonical, hinside, hpos, honce, hclearing, haddr, hstages, houtputs⟩

theorem hostStep_keeps_inv {s t : State} (hs : s.Inv) (h : hostStep s = .next t) : t.Inv := by
  obtain ⟨hcanonical, hinside, honce, hclearing⟩ := hostStep_keeps_cells h hs.cells
  obtain ⟨hcfg, hline, -, -, hpanel⟩ := hostStep_frame h
  have hposition : seqInRange s.cfg t.seq = true := by
    rcases hostStep_seq h with hseq | hstart
    · rw [hseq]; exact hs.position
    · rw [hstart.started]; exact seqInRange_start hs.configured
  exact
    { configured := hcfg ▸ hs.configured
      canonical := hcanonical
      inside := hinside
      position := hcfg ▸ hposition
      clearingOnce := honce
      clearingInside := hclearing
      addressLines := by rw [hline, hcfg]; exact hs.addressLines
      stages := by rw [hpanel, hcfg]; exact hs.stages
      outputs := by rw [hpanel, hcfg]; exact hs.outputs }

theorem step_sequencer_keeps_inv {s t : State} (hs : s.Inv) (ht : s.turn = some .sequencer) (h : step s = .next t) :
    t.Inv := by
  obtain ⟨a, i, -, hr, hseq, hcfg, hfb, hclearing, -, -, -, -, hentry⟩ := step_sequencer_cases ht h
  have hdriven : t.line.addr.toNat < 2 ^ s.cfg.aw ∧ t.panel.HasStages s.cfg.cols := by
    have hpanel : s.panel.HasStages s.cfg.cols := ⟨hs.stages, hs.outputs⟩
    rcases hentry with ⟨r, c, -, -, el, -, ep, -⟩ | ⟨l, v, -, hp, -, el, -, ep, -⟩ | ⟨n, -, -, el, -, ep, -⟩ <;>
      rw [el, ep]
    · exact ⟨hs.addressLines, hpanel⟩
    · exact ⟨setLine_addr_lt v hp hs.addressLines, hpanel.onWrite s.line l v⟩
    · exact ⟨hs.addressLines, hpanel⟩
  obtain ⟨haddr, hstages, houtputs⟩ := hdriven
  exact
    { configured := hcfg ▸ hs.configured
      canonical := hfb ▸ hs.canonical
      inside := by rw [hfb, hcfg]; exact hs.inside
      position := by rw [hseq, hcfg]; exact seqInRange_advanceSeq hr
      clearingOnce := hclearing ▸ hs.clearingOnce
      clearingInside := by rw [hclearing, hcfg]; exact hs.clearingInside
      addressLines := hcfg ▸ haddr
      stages := hcfg ▸ hstages
      outputs := hcfg ▸ houtputs }

/-- Settles O39, by which agent moves. -/
theorem stepKeepsInvariant : Obligations.StepKeepsInvariant := by
  intro s t hs h
  rcases (step_cases h).2 with ⟨-, rfl⟩ | ⟨-, hhost⟩ | ⟨hturn, -⟩
  · exact beginStep_keeps_inv hs
  · exact hostStep_keeps_inv (beginStep_keeps_inv hs) hhost
  · exact step_sequencer_keeps_inv hs hturn h

/-! ## Lane 2 and BUSY -/

/-- The sequencer writes no line of lane 2 (10_state.md R27), so one that it leaves alone reads as before. -/
theorem step_sequencer_lane2 {s t : State} (ht : s.turn = some .sequencer) (h : step s = .next t) {l : Line}
    (hl : l = .r2 ∨ l = .g2 ∨ l = .b2) : getLine t.line l = getLine s.line l := by
  have hw := (step_cases h).1
  obtain ⟨a, i, -, hr, -, -, -, -, -, -, -, -, hentry⟩ := step_sequencer_cases ht h
  rcases hentry with ⟨_, _, -, -, el, -⟩ | ⟨l', v, hissue, hp, -, el, -⟩ | ⟨_, -, -, el, -⟩ <;> rw [el]
  rcases rowStep_issue hw ((positionInRange_iff s.cfg a i).1 hr).2 hissue with
    ⟨_, _, ⟨rfl, rfl⟩, -, hr2, hg2, hb2⟩ | ⟨n, hslp⟩
  · rw [getLine_setLine _ _ _ _ (Line.present_twelve hp), if_neg]
    rcases hl with rfl | rfl | rfl
    exacts [hr2.symm, hg2.symm, hb2.symm]
  · cases hslp

theorem step_lane2 {s t : State} (h : step s = .next t) {l : Line} (hl : l = .r2 ∨ l = .g2 ∨ l = .b2) :
    getLine t.line l = getLine s.line l := by
  rcases (step_cases h).2 with ⟨-, rfl⟩ | ⟨hturn, -⟩ | ⟨hturn, -⟩
  · rfl
  · rw [(step_host_frame hturn h).line]
  · exact step_sequencer_lane2 hturn h hl

/-- No step writes the parameters (10_state.md R30). -/
theorem step_cfg {s t : State} (h : step s = .next t) : t.cfg = s.cfg := by
  rcases (step_cases h).2 with ⟨-, rfl⟩ | ⟨hturn, -⟩ | ⟨hturn, -⟩
  · rfl
  · exact (step_host_frame hturn h).cfg
  · obtain ⟨_, _, -, -, -, hcfg, -⟩ := step_sequencer_cases hturn h
    exact hcfg

/-- Settles O46: `step_lane2` at each of the three lines, and `step_cfg`. -/
theorem laneTwoAndParametersFixed : Obligations.LaneTwoAndParametersFixed :=
  fun _ _ h => ⟨step_lane2 h (.inl rfl), step_lane2 h (.inr (.inl rfl)), step_lane2 h (.inr (.inr rfl)), step_cfg h⟩

/-- BUSY is SEQ ≠ Idle (10_state.md R25), so a step that keeps SEQ keeps BUSY. -/
theorem State.busy_congr {s t : State} (h : t.seq = s.seq) : t.busy = s.busy := by
  simp [State.busy, h]

/-- The sequencer reaches Idle only from the last step of the last row (41_gpio_protocol_sequencer.md R135). -/
theorem eq_last_of_advanceSeq_idle {c : Config} {a i : Nat} (hr : positionInRange c a i = true)
    (h : advanceSeq c a i = .idle) : a = c.rows - 1 ∧ i = c.rowLength - 1 := by
  obtain ⟨ha, hi⟩ := (positionInRange_iff c a i).1 hr
  unfold advanceSeq at h
  split_ifs at h
  omega

theorem State.seq_eq_idle {s : State} (h : s.busy = false) : s.seq = .idle := by
  cases hseq : s.seq with
  | idle => rfl
  | busy a i => simp [State.busy_eq_true hseq] at h

theorem step_raises_busy {s t : State} (h : step s = .next t) (hs : s.busy = false) (ht : t.busy = true) :
    RefreshAccepted s t := by
  rcases (step_cases h).2 with ⟨-, rfl⟩ | ⟨hturn, -⟩ | ⟨hturn, -⟩
  · simp [hs] at ht
  · rcases step_host_seq hturn h with hseq | hstart
    · simp [State.busy_congr hseq, hs] at ht
    · exact hstart
  · simp [(s.turn_sequencer_iff.1 hturn).1] at hs

theorem step_lowers_busy {s t : State} (h : step s = .next t) (hs : s.busy = true) (ht : t.busy = false) :
    s.seq = .busy (s.cfg.rows - 1) (s.cfg.rowLength - 1) := by
  rcases (step_cases h).2 with ⟨-, rfl⟩ | ⟨hturn, -⟩ | ⟨hturn, -⟩
  · simp [hs] at ht
  · rcases step_host_seq hturn h with hseq | hstart
    · simp [State.busy_congr hseq, hs] at ht
    · simp [hstart.idle] at hs
  · obtain ⟨a, i, hseq, hr, hadvance, -⟩ := step_sequencer_cases hturn h
    obtain ⟨rfl, rfl⟩ := eq_last_of_advanceSeq_idle hr (hadvance ▸ State.seq_eq_idle ht)
    exact hseq

/-- Settles O48: only the host can raise BUSY and only the sequencer can lower it. -/
theorem busyRisesAndFalls : Obligations.BusyRisesAndFalls := by
  intro s t h
  refine ⟨fun hs ht => ?_, step_lowers_busy h⟩
  obtain ⟨-, hstart, hcommand⟩ := step_raises_busy h hs ht
  exact ⟨hstart, hcommand⟩

/-! ## Reset and launch -/

/-- Settles O37: an unlisted cell reads black, and the rest is what `State.resetWith` puts there. -/
theorem resetValues : Obligations.ResetValues :=
  fun c => ⟨fun row col => Memory.read_nil (c.cellIndex row col), rfl, State.busy_eq_false rfl, fun _ => rfl, rfl, rfl⟩

theorem resetWith_fresh {c : Config} (hw : c.wellFormed = true) : (State.resetWith c).Fresh :=
  ⟨hw, rfl, rfl, rfl, rfl, rfl, rfl, rfl, rfl, rfl⟩

/-- A launch state's address lines are LINE_INIT's, which a right configuration keeps below 2^AW. -/
theorem State.Fresh.inv {s : State} (h : s.Fresh) : s.Inv where
  configured := h.configured
  canonical := by rw [h.black]; rfl
  inside := by simp [h.black]
  position := by rw [h.idle]; rfl
  clearingOnce := by simp [h.noClear]
  clearingInside := by simp [h.noClear]
  addressLines := by
    obtain ⟨-, -, -, -, haddr⟩ := s.cfg.wellFormed_iff.1 h.configured
    rwa [h.lines]
  stages := by simp [h.panel]
  outputs := by simp [h.panel]

theorem State.linesFollow_of_idle {s : State} (h : s.seq = .idle) : s.linesFollow := by
  simp [State.linesFollow, h]

theorem State.Fresh.traceExplains {s : State} (h : s.Fresh) : s.traceExplains where
  lines := by rw [h.noEvent, levelsAfter_nil, h.lines]
  panel := by rw [h.noEvent, h.panel]; rfl

/-- Settles O38: reset is fresh, and a fresh state, idle and without an event, meets the three invariants. -/
theorem launchMeetsInvariants : Obligations.LaunchMeetsInvariants :=
  ⟨fun _ => resetWith_fresh, fun _ h => ⟨h.inv, State.linesFollow_of_idle h.idle, h.traceExplains⟩⟩

end Sys2Proof.Machine

/-! The events of a row at the positions of RowScan (41_gpio_protocol_sequencer.md R133, R140), and that a refresh
renders the framebuffer it reads (20_memory.md R63). -/

namespace Sys2Proof.Machine

/-! ## Where each event of a row stands -/

theorem columnEvents_length (c : Config) (k : Color) : (columnEvents c k).length = 9 := rfl

/-- Lists of one length `n`, one after the other: entry `j` of the `m`-th is at `n * m + j`. -/
theorem getElem?_flatMap_range {α : Type} {f : Nat → List α} {n : Nat} (hlen : ∀ m, (f m).length = n) {k m j : Nat}
    (hm : m < k) (hj : j < n) : ((List.range k).flatMap f)[n * m + j]? = (f m)[j]? := by
  induction k with
  | zero => omega
  | succ k ih =>
    have hbefore : ((List.range k).flatMap f).length = n * k := by simp [List.length_flatMap, hlen, Nat.mul_comm]
    rw [List.range_succ, List.flatMap_append, List.flatMap_singleton]
    rcases Nat.lt_succ_iff_lt_or_eq.1 hm with hlt | rfl
    · have hinside : n * m + j < n * k := by
        calc n * m + j < n * m + n := by omega
          _ = n * (m + 1) := by ring
          _ ≤ n * k := Nat.mul_le_mul_left n hlt
      rw [List.getElem?_append_left (by omega), ih hlt]
    · rw [List.getElem?_append_right (by omega), hbefore, Nat.add_sub_cancel_left]

/-- The six events after the columns: LATPULSE, the output enable and the dwell (R133, e+0 to e+5). -/
def rowTailEvents (c : Config) : List Event := latPulseEvents c ++ [.write .oe false, .delay c.tDwell]

section RowTrace

variable (c : Config) (a : Nat) (row : Nat → Color)

/-- A row in its three parts: the events before the columns, the columns, the events after them (R140). -/
theorem rowTrace_eq_parts : rowTrace c a row =
    (.write .oe true :: setAddrEvents c a) ++
      ((List.range c.cols).flatMap (fun col => columnEvents c (row col)) ++ rowTailEvents c) := by
  simp [rowTrace, rowTailEvents]

theorem rowHead_length : (Event.write .oe true :: setAddrEvents c a).length = c.columnBase 0 := by
  simp [setAddrEvents, Config.columnBase, Nat.add_comm]

theorem rowColumns_length :
    ((List.range c.cols).flatMap (fun col => columnEvents c (row col))).length = 9 * c.cols := by
  simp [List.length_flatMap, columnEvents_length, Nat.mul_comm]

theorem rowTrace_length : (rowTrace c a row).length = c.columnBase 0 + 9 * c.cols + 6 := by
  rw [rowTrace_eq_parts, List.length_append, List.length_append, rowHead_length, rowColumns_length]
  rfl

theorem rowTrace_getElem?_zero : (rowTrace c a row)[0]? = some (.write .oe true) := rfl

theorem rowTrace_getElem?_address {j : Nat} (hj : j < c.aw) :
    (rowTrace c a row)[1 + j]? = some (.write (.addr j) (addressBit a j)) := by
  have hlen := rowHead_length c a
  rw [rowTrace_eq_parts, List.getElem?_append_left (by rw [hlen, Config.columnBase]; omega), Nat.add_comm]
  simp [setAddrEvents, hj]

theorem rowTrace_getElem?_column {col j : Nat} (hcol : col < c.cols) (hj : j < 9) :
    (rowTrace c a row)[c.columnBase 0 + (9 * col + j)]? = (columnEvents c (row col))[j]? := by
  have hcols := rowColumns_length c row
  rw [rowTrace_eq_parts, ← rowHead_length c a, List.getElem?_append_right (by omega), Nat.add_sub_cancel_left,
    List.getElem?_append_left (by omega), getElem?_flatMap_range (fun _ => columnEvents_length c _) hcol hj]

theorem rowTrace_getElem?_tail (j : Nat) :
    (rowTrace c a row)[c.columnBase 0 + (9 * c.cols + j)]? = (rowTailEvents c)[j]? := by
  rw [rowTrace_eq_parts, ← rowHead_length c a, List.getElem?_append_right (by omega), Nat.add_sub_cancel_left,
    ← rowColumns_length c row, List.getElem?_append_right (by omega), Nat.add_sub_cancel_left]

end RowTrace

/-! ## How many events come before each position -/

section EventIndex

variable {c : Config}

theorem eventIndex_head {i : Nat} (h : i ≤ c.columnBase 0) : eventIndex c i = i := if_pos h

/-- The READ of a column leaves no event: nine are left by each of the columns before it. -/
theorem eventIndex_read {col : Nat} (h : col < c.cols) :
    eventIndex c (c.columnBase col) = c.columnBase 0 + 9 * col := by
  unfold eventIndex Config.columnBase
  split_ifs <;> omega

theorem eventIndex_column {col j : Nat} (h : col < c.cols) (hj : j < 10) :
    eventIndex c (c.columnBase col + (j + 1)) = c.columnBase 0 + (9 * col + j) := by
  unfold eventIndex Config.columnBase
  split_ifs <;> omega

theorem eventIndex_tail (j : Nat) : eventIndex c (c.latchBase + j) = c.columnBase 0 + (9 * c.cols + j) := by
  unfold eventIndex Config.latchBase Config.columnBase
  split_ifs <;> omega

/-- The steps of one row leave all its events. -/
theorem eventIndex_rowLength (a : Nat) (row : Nat → Color) :
    eventIndex c c.rowLength = (rowTrace c a row).length := by
  rw [c.rowLength_eq, eventIndex_tail, rowTrace_length, Nat.add_assoc]

end EventIndex

/-! ## The events an entry of RowScan leaves -/

/-- What an entry appends to the trace: READ nothing (00_scope.md R14), a micro-operation its event
(44_line_primitives.md R190, R193). -/
def RowStep.events : RowStep → List Event
  | .read _ _ => []
  | .issue (.wl l v) => [.write l v]
  | .issue (.slp n) => [.delay n]
  | .issue .clear => []
  | .issue (.setPixel _ _ _) => []
  | .issue (.getPixel _ _) => []
  | .issue .refreshOnce => []

theorem step_sequencer_trace {s t : State} {a i : Nat} (hseq : s.seq = .busy a i) (ht : s.turn = some .sequencer)
    (h : step s = .next t) : t.trace = s.trace ++ (rowStep s.cfg s.px a i).events := by
  obtain ⟨_, _, hseq', -, -, -, -, -, -, -, -, -, hentry⟩ := step_sequencer_cases ht h
  cases hseq.symm.trans hseq'
  rcases hentry with ⟨r, k, he, -, -, htrace, -⟩ | ⟨l, v, he, -, -, -, htrace, -⟩ | ⟨n, he, -, -, htrace, -⟩ <;>
    rw [he, htrace]
  · exact (List.append_nil _).symm
  · rfl
  · rfl

/-- The entries of a column (R133). -/
theorem rowStep_column (c : Config) (px : Color) (a : Nat) {col j : Nat} (hcol : col < c.cols) (hj : j < 10) :
    rowStep c px a (c.columnBase col + j) = columnStep c px a col j := by
  have hpos : c.columnBase col + j - c.columnBase 0 = 10 * col + j := by unfold Config.columnBase; omega
  rw [rowStep, if_neg (by unfold Config.columnBase; omega), if_neg (by unfold Config.columnBase; omega),
    if_pos (by unfold Config.columnBase Config.latchBase; omega), hpos, show (10 * col + j) / 10 = col by omega,
    show (10 * col + j) % 10 = j by omega]

theorem columnStep_issue (c : Config) (px : Color) (a col : Nat) {j : Nat} (hj : j < 9) :
    ∃ u, columnStep c px a col (j + 1) = .issue u := by
  interval_cases j <;> exact ⟨_, rfl⟩

theorem columnStep_events (c : Config) (px : Color) (a col : Nat) {j : Nat} (hj : j < 9) :
    (columnStep c px a col (j + 1)).events = (columnEvents c px)[j]?.toList := by
  interval_cases j <;> rfl

theorem tailStep_events (c : Config) {j : Nat} (hj : j < 6) :
    (tailStep c j).events = (rowTailEvents c)[j]?.toList := by
  interval_cases j <;> rfl

/-- From a column's READ on, until its last step, PX holds the column's colour (42_row_reader_and_bit_serializer.md
R150): the part of `State.rendering` about PX. -/
def HoldsColumn (c : Config) (row : Nat → Color) (px : Color) (i : Nat) : Prop :=
  ∀ col j, col < c.cols → 1 ≤ j → j < 10 → i = c.columnBase col + j → px = row col

theorem take_eventIndex_of_issue {c : Config} {i n : Nat} (h : eventIndex c i = n) (h' : eventIndex c (i + 1) = n + 1)
    (es : List Event) : es.take (eventIndex c (i + 1)) = es.take (eventIndex c i) ++ es[n]?.toList := by
  rw [h, h', List.take_add_one]

/-- The events before a position grow by what its entry leaves (R133, R140). -/
theorem take_eventIndex_succ {c : Config} {a i : Nat} {row : Nat → Color} {px : Color} (hi : i < c.rowLength)
    (hpx : HoldsColumn c row px i) :
    (rowTrace c a row).take (eventIndex c (i + 1)) =
      (rowTrace c a row).take (eventIndex c i) ++ (rowStep c px a i).events := by
  have hhead : ∀ k, k ≤ c.aw + 1 → eventIndex c k = k := fun k hk =>
    eventIndex_head (by unfold Config.columnBase; omega)
  rcases rowStep_cases c px a i hi with ⟨rfl, e⟩ | ⟨j, hj, rfl, e⟩ | ⟨col, j, hcol, hj, rfl, e⟩ | ⟨j, hj, rfl, e⟩ <;>
    rw [e]
  · rw [take_eventIndex_of_issue (hhead 0 (by omega)) (hhead 1 (by omega)), rowTrace_getElem?_zero]
    rfl
  · rw [take_eventIndex_of_issue (hhead (1 + j) (by omega)) (hhead (1 + j + 1) (by omega)),
      rowTrace_getElem?_address c a row hj]
    rfl
  · cases j with
    | zero =>
      have hstay : eventIndex c (c.columnBase col + 1) = eventIndex c (c.columnBase col) :=
        (eventIndex_column hcol hj).trans (eventIndex_read hcol).symm
      exact (congrArg (List.take · _) hstay).trans (List.append_nil _).symm
    | succ j =>
      obtain rfl := hpx col (j + 1) hcol (by omega) hj rfl
      rw [take_eventIndex_of_issue (eventIndex_column hcol (by omega)) (eventIndex_column hcol hj),
        rowTrace_getElem?_column c a row hcol (by omega), columnStep_events c _ a col (by omega)]
  · rw [take_eventIndex_of_issue (eventIndex_tail j) (eventIndex_tail (j + 1)), rowTrace_getElem?_tail,
      tailStep_events c hj]

/-! ## The events of a frame before a position -/

section EventsBefore

variable {c : Config} {fb : Memory} {a : Nat}

theorem eventsBefore_succ {i : Nat} {px : Color} (hi : i < c.rowLength)
    (hpx : HoldsColumn c (rowColors c fb a) px i) :
    eventsBefore c fb a (i + 1) = eventsBefore c fb a i ++ (rowStep c px a i).events := by
  rw [eventsBefore, take_eventIndex_succ hi hpx, ← List.append_assoc]
  rfl

theorem eventsBefore_row (a : Nat) :
    eventsBefore c fb a 0 = (List.range a).flatMap (fun r => rowTrace c r (rowColors c fb r)) := by
  rw [eventsBefore, eventIndex_head (Nat.zero_le _), List.take_zero, List.append_nil]

/-- The end of a row is the beginning of the next one. -/
theorem eventsBefore_rowLength : eventsBefore c fb a c.rowLength = eventsBefore c fb (a + 1) 0 := by
  rw [eventsBefore_row, eventsBefore, eventIndex_rowLength a (rowColors c fb a), List.take_length, List.range_succ,
    List.flatMap_append, List.flatMap_singleton]

theorem eventsBefore_rows : eventsBefore c fb c.rows 0 = frameTrace c fb := eventsBefore_row c.rows

end EventsBefore

/-! ## A refresh renders the framebuffer -/

theorem rendering_iff {s : State} {a i : Nat} (hseq : s.seq = .busy a i) (before : List Event) :
    s.rendering before ↔ positionInRange s.cfg a i = true ∧ s.trace = before ++ eventsBefore s.cfg s.fb a i ∧
      HoldsColumn s.cfg (rowColors s.cfg s.fb a) s.px i := by
  rw [State.rendering, hseq]
  rfl

theorem State.rendering.position {s : State} {before : List Event} (h : s.rendering before) :
    ∃ a i, s.seq = .busy a i := by
  cases hseq : s.seq with
  | idle => rw [State.rendering, hseq] at h; exact h.elim
  | busy a i => exact ⟨a, i, rfl⟩

/-- `State.rendering` looks at FB, SEQ, PX, the parameters and the trace only. -/
theorem State.rendering.congr {s t : State} {before : List Event} (h : s.rendering before) (hcfg : t.cfg = s.cfg)
    (hfb : t.fb = s.fb) (hseq : t.seq = s.seq) (hpx : t.px = s.px) (htrace : t.trace = s.trace) :
    t.rendering before := by
  rw [State.rendering, hcfg, hfb, hseq, hpx, htrace]
  exact h

/-- A host step that changes no cell is not seen by a refresh in progress (60_exceptions.md R242). -/
theorem step_host_keeps_rendering {s t : State} {before : List Event} (hs : s.rendering before)
    (ht : s.turn = some .host) (h : step s = .next t) (hfb : t.fb = s.fb) : t.rendering before := by
  obtain ⟨a, i, hbusy⟩ := hs.position
  obtain ⟨hcfg, -, hpx, htrace, -⟩ := step_host_frame ht h
  rcases step_host_seq ht h with hseq | hstart
  · exact hs.congr hcfg hfb hseq hpx htrace
  · exact absurd hstart.idle (by simp [State.busy_eq_true hbusy])

/-- Only a READ loads PX (10_state.md R24). -/
theorem step_sequencer_px {s t : State} {a i : Nat} (hseq : s.seq = .busy a i) (ht : s.turn = some .sequencer)
    (h : step s = .next t) :
    (∃ r k, rowStep s.cfg s.px a i = .read r k ∧ t.px = s.pixel r k) ∨
      (∃ u, rowStep s.cfg s.px a i = .issue u ∧ t.px = s.px) := by
  obtain ⟨_, _, hseq', -, -, -, -, -, -, -, -, -, hentry⟩ := step_sequencer_cases ht h
  cases hseq.symm.trans hseq'
  rcases hentry with ⟨r, k, he, hpx, -⟩ | ⟨l, v, he, -, hpx, -⟩ | ⟨n, he, hpx, -⟩
  · exact .inl ⟨r, k, he, hpx⟩
  · exact .inr ⟨_, he, hpx⟩
  · exact .inr ⟨_, he, hpx⟩

/-- Within a row PX goes on holding its column's colour: its READ loads it, the column's other entries keep it. -/
theorem step_sequencer_holdsColumn {s t : State} {a i : Nat} (hseq : s.seq = .busy a i)
    (ht : s.turn = some .sequencer) (h : step s = .next t) (hs : HoldsColumn s.cfg (rowColors s.cfg s.fb a) s.px i) :
    HoldsColumn s.cfg (rowColors s.cfg s.fb a) t.px (i + 1) := by
  intro col j hcol hj hj' hi
  obtain ⟨j, rfl⟩ : ∃ k, j = k + 1 := ⟨j - 1, by omega⟩
  obtain rfl : i = s.cfg.columnBase col + j := by omega
  have hpx := step_sequencer_px hseq ht h
  rw [rowStep_column s.cfg s.px a hcol (by omega)] at hpx
  cases j with
  | zero =>
    rcases hpx with ⟨r, k, he, hpx⟩ | ⟨u, he, -⟩ <;> cases he
    exact hpx
  | succ j =>
    obtain ⟨u, hu⟩ := columnStep_issue s.cfg s.px a col (j := j) (by omega)
    rw [hu] at hpx
    rcases hpx with ⟨r, k, he, -⟩ | ⟨_, -, hpx⟩
    · cases he
    · exact hpx.trans (hs col (j + 1) hcol (by omega) (by omega) rfl)

/-- At the first step of a row no column has begun. -/
theorem holdsColumn_zero (c : Config) (row : Nat → Color) (px : Color) : HoldsColumn c row px 0 := by
  intro col j _ hj _ h
  omega

/-- The three ways on from a position (R135): within the row, to the next row, to the end of the refresh. -/
theorem advanceSeq_cases {c : Config} {a i : Nat} (hr : positionInRange c a i = true) :
    (i + 1 < c.rowLength ∧ advanceSeq c a i = .busy a (i + 1)) ∨
      (i + 1 = c.rowLength ∧ a + 1 < c.rows ∧ advanceSeq c a i = .busy (a + 1) 0) ∨
      (i + 1 = c.rowLength ∧ a + 1 = c.rows ∧ advanceSeq c a i = .idle) := by
  obtain ⟨ha, hi⟩ := (positionInRange_iff c a i).1 hr
  unfold advanceSeq
  split_ifs with hnext hrow
  · exact .inl ⟨hnext, rfl⟩
  · exact .inr (.inl ⟨by omega, hrow, rfl⟩)
  · exact .inr (.inr ⟨by omega, by omega, rfl⟩)

/-- A step of the sequencer renders one entry more, or ends the refresh after the last one (R135, R140). -/
theorem step_sequencer_keeps_rendering {s t : State} {before : List Event} (hs : s.rendering before)
    (ht : s.turn = some .sequencer) (h : step s = .next t) :
    t.rendering before ∨ (t.seq = .idle ∧ t.trace = before ++ frameTrace s.cfg s.fb) := by
  obtain ⟨a, i, hseq, hr, hadvance, hcfg, hfb, -⟩ := step_sequencer_cases ht h
  obtain ⟨-, htrace, hpx⟩ := (rendering_iff hseq before).1 hs
  obtain ⟨ha, hi⟩ := (positionInRange_iff s.cfg a i).1 hr
  have hgrown : t.trace = before ++ eventsBefore s.cfg s.fb a (i + 1) := by
    rw [step_sequencer_trace hseq ht h, htrace, List.append_assoc, eventsBefore_succ hi hpx]
  rcases advanceSeq_cases hr with ⟨hnext, e⟩ | ⟨hlast, hrow, e⟩ | ⟨hlast, hrow, e⟩ <;> rw [e] at hadvance
  · rw [rendering_iff hadvance, hcfg, hfb]
    exact .inl ⟨(positionInRange_iff _ _ _).2 ⟨ha, hnext⟩, hgrown, step_sequencer_holdsColumn hseq ht h hpx⟩
  · rw [hlast, eventsBefore_rowLength] at hgrown
    rw [rendering_iff hadvance, hcfg, hfb]
    exact .inl ⟨(positionInRange_iff _ _ _).2 ⟨hrow, by omega⟩, hgrown, holdsColumn_zero _ _ _⟩
  · rw [hlast, eventsBefore_rowLength, hrow, eventsBefore_rows] at hgrown
    exact .inr ⟨hadvance, hgrown⟩

/-- Settles O50, by which agent moves. -/
theorem stepKeepsRendering : Obligations.StepKeepsRendering := by
  intro s t before hs h hfb
  rcases (step_cases h).2 with ⟨-, rfl⟩ | ⟨hturn, -⟩ | ⟨hturn, -⟩
  · exact .inl (hs.congr rfl rfl rfl rfl rfl)
  · exact .inl (step_host_keeps_rendering hs hturn h hfb)
  · exact step_sequencer_keeps_rendering hs hturn h

end Sys2Proof.Machine

/-! The encodings (30_encoding.md): the fields of a word, what each decoder accepts, and that a decoder and the encoder
are inverse to each other. -/

namespace Sys2Proof

/-! ## Fields of a word -/

section Fields

variable {n : Nat} (x : BitVec n)

/-- A field placed at bit `s` of a word is read back from there. -/
@[simp] theorem extractLsb'_placed {s : Nat} (h : s + n ≤ 32) : (x.setWidth 32 <<< s).extractLsb' s n = x := by
  apply BitVec.eq_of_getLsbD_eq
  intro i hi
  have hin : s + i < 32 := by omega
  simp [hi, hin]

/-- A field placed at bit `s` of a word leaves every range of bits that it does not meet 0. -/
@[simp] theorem extractLsb'_placed_of_disjoint {s t m : Nat} (h : t + m ≤ s ∨ s + n ≤ t) :
    (x.setWidth 32 <<< s).extractLsb' t m = 0#m := by
  apply BitVec.eq_of_getLsbD_eq
  intro i hi
  rcases h with hbelow | habove
  · have hlow : t + i < s := by omega
    simp [hlow]
  · have hhigh : x.getLsbD (t + i - s) = false := BitVec.getLsbD_of_ge x _ (by omega)
    simp [hhigh]

/-- The lowest field of a word leaves the bits above it 0. -/
@[simp] theorem extractLsb'_setWidth_of_ge {t m : Nat} (h : n ≤ t) : (x.setWidth 32).extractLsb' t m = 0#m := by
  simpa using extractLsb'_placed_of_disjoint x (s := 0) (t := t) (m := m) (.inr (by omega))

end Fields

/-- A field as arithmetic on the word: divide by its place, keep its width. -/
theorem extractLsb'_eq_ofNat (w : Word) (s n : Nat) : w.extractLsb' s n = BitVec.ofNat n (w.toNat / 2 ^ s) := by
  rw [BitVec.extractLsb', Nat.shiftRight_eq_div_pow]

/-- Words that agree on a mask agree on every field that the mask covers. -/
theorem extractLsb'_eq_of_agree {w w' m : Word} {s n : Nat} (h : w' &&& m = w &&& m)
    (hm : m.extractLsb' s n = BitVec.allOnes n) : w'.extractLsb' s n = w.extractLsb' s n := by
  simpa [BitVec.extractLsb'_and, hm] using congrArg (BitVec.extractLsb' s n) h

/-! ## Command words -/

/-- What the command port accepts: the four opcodes, each with its own fields (R82, R97). -/
theorem decodeCommand_eq_ok_iff {w : Word} {i : Instr} : decodeCommand w = .ok i ↔
    (opField w = 1#4 ∧ i = .clear) ∨
    (opField w = 2#4 ∧ i = .setPixel (rowField w) (colField w) (colorField w)) ∨
    (opField w = 3#4 ∧ i = .getPixel (rowField w) (colField w)) ∨
    (opField w = 4#4 ∧ i = .refreshOnce) := by
  unfold decodeCommand
  split_ifs with h1 h2 h3 h4
  · simp [h1, eq_comm]
  · simp [h2, eq_comm]
  · simp [h3, eq_comm]
  · simp [h4, eq_comm]
  · simp [h1, h2, h3, h4]

/-- What the command port refuses: every other opcode (R91 (a)). -/
theorem decodeCommand_of_reserved {w : Word}
    (h : opField w ≠ 1#4 ∧ opField w ≠ 2#4 ∧ opField w ≠ 3#4 ∧ opField w ≠ 4#4) :
    decodeCommand w = .error (.reservedOpcode (opField w)) := by
  obtain ⟨h1, h2, h3, h4⟩ := h
  simp [decodeCommand, h1, h2, h3, h4]

section CommandFields

variable (row col : Coord) (color : Color)

theorem opField_setPixel : opField (encode (.setPixel row col color)) = 2#4 := by
  simp [opField, encode, BitVec.extractLsb'_or]

theorem rowField_setPixel : rowField (encode (.setPixel row col color)) = row := by
  simp [rowField, encode, BitVec.extractLsb'_or]

theorem colField_setPixel : colField (encode (.setPixel row col color)) = col := by
  simp [colField, encode, BitVec.extractLsb'_or]

theorem colorField_setPixel : colorField (encode (.setPixel row col color)) = color := by
  simp [colorField, encode, BitVec.extractLsb'_or, BitVec.extractLsb'_setWidth_of_le]

theorem opField_getPixel : opField (encode (.getPixel row col)) = 3#4 := by
  simp [opField, encode, BitVec.extractLsb'_or]

theorem rowField_getPixel : rowField (encode (.getPixel row col)) = row := by
  simp [rowField, encode, BitVec.extractLsb'_or]

theorem colField_getPixel : colField (encode (.getPixel row col)) = col := by
  simp [colField, encode, BitVec.extractLsb'_or]

end CommandFields

/-- Settles O1: the fields of a command's word are its opcode and its operands. -/
theorem commandWordsRoundTrip : Obligations.CommandWordsRoundTrip := by
  intro i hi
  rw [decodeCommand_eq_ok_iff]
  cases i with
  | clear => exact .inl ⟨rfl, rfl⟩
  | setPixel row col color =>
    rw [rowField_setPixel, colField_setPixel, colorField_setPixel]
    exact .inr (.inl ⟨opField_setPixel row col color, rfl⟩)
  | getPixel row col =>
    rw [rowField_getPixel, colField_getPixel]
    exact .inr (.inr (.inl ⟨opField_getPixel row col, rfl⟩))
  | refreshOnce => exact .inr (.inr (.inr ⟨rfl, rfl⟩))
  | wl l v => cases hi
  | slp n => cases hi

/-- Every instruction uses the opcode's four bits (R82). -/
theorem opField_usedBits (i : Instr) : opField (Machine.usedBits i) = BitVec.allOnes 4 := by
  cases i <;> rw [Machine.usedBits] <;> decide

/-- Settles O5: the other word has the same opcode and the same operands, and these are all the decoder reads. -/
theorem unusedBitsIgnored : Obligations.UnusedBitsIgnored := by
  intro w w' i hdec hagree
  have hop : opField w' = opField w := extractLsb'_eq_of_agree hagree (opField_usedBits i)
  rw [decodeCommand_eq_ok_iff] at hdec ⊢
  rw [hop]
  rcases hdec with ⟨h, rfl⟩ | ⟨h, rfl⟩ | ⟨h, rfl⟩ | ⟨h, rfl⟩
  · exact .inl ⟨h, rfl⟩
  · rw [Machine.usedBits] at hagree
    have hrow : rowField w' = rowField w := extractLsb'_eq_of_agree hagree (by decide)
    have hcol : colField w' = colField w := extractLsb'_eq_of_agree hagree (by decide)
    have hcolor : colorField w' = colorField w := extractLsb'_eq_of_agree hagree (by decide)
    rw [hrow, hcol, hcolor]
    exact .inr (.inl ⟨h, rfl⟩)
  · rw [Machine.usedBits] at hagree
    have hrow : rowField w' = rowField w := extractLsb'_eq_of_agree hagree (by decide)
    have hcol : colField w' = colField w := extractLsb'_eq_of_agree hagree (by decide)
    rw [hrow, hcol]
    exact .inr (.inr (.inl ⟨h, rfl⟩))
  · exact .inr (.inr (.inr ⟨h, rfl⟩))

/-- Settles O4: each field is a quotient of the word, and the word's quotient by 2^28 is below 16, so that no two
opcodes of the list are confused. -/
theorem commandDecoderFollowsOpcode : Obligations.CommandDecoderFollowsOpcode := by
  intro w
  have hop : opField w = BitVec.ofNat 4 (w.toNat / 2 ^ 28) := extractLsb'_eq_ofNat w 28 4
  have hrow : rowField w = BitVec.ofNat 12 (w.toNat / 2 ^ 16) := extractLsb'_eq_ofNat w 16 12
  have hcol : colField w = BitVec.ofNat 12 (w.toNat / 2 ^ 4) := extractLsb'_eq_ofNat w 4 12
  have hcolor : colorField w = BitVec.ofNat 3 w.toNat := by
    rw [colorField, extractLsb'_eq_ofNat, pow_zero, Nat.div_one]
  have hlt : w.toNat / 2 ^ 28 < 16 := by omega
  rw [← hrow, ← hcol, ← hcolor]
  refine ⟨fun h => ?_, fun h => ?_, fun h => ?_, fun h => ?_, fun h => ?_⟩
  · exact decodeCommand_eq_ok_iff.2 (.inl ⟨by rw [hop, h], rfl⟩)
  · exact decodeCommand_eq_ok_iff.2 (.inr (.inl ⟨by rw [hop, h], rfl⟩))
  · exact decodeCommand_eq_ok_iff.2 (.inr (.inr (.inl ⟨by rw [hop, h], rfl⟩)))
  · exact decodeCommand_eq_ok_iff.2 (.inr (.inr (.inr ⟨by rw [hop, h], rfl⟩)))
  · rw [← hop]
    have hne : ∀ k, 0 < k → k < 5 → opField w ≠ BitVec.ofNat 4 k := by
      intro k hpos hk heq
      have hval := congrArg BitVec.toNat (hop.symm.trans heq)
      simp only [BitVec.toNat_ofNat] at hval
      omega
    exact decodeCommand_of_reserved ⟨hne 1 (by omega) (by omega), hne 2 (by omega) (by omega),
      hne 3 (by omega) (by omega), hne 4 (by omega) (by omega)⟩

/-! ## Micro-operation words -/

theorem toNat_lineId_addr {i : Nat} (h : i < 12) : (lineId (.addr i)).toNat = 16 + i := by
  simp only [lineId, BitVec.toNat_ofNat]
  omega

/-- R88's table from the identifier's side: the identifiers from 16 on are the address lines, in order. -/
theorem lineOfId_of_sixteen_le {aw : Nat} {id : BitVec 8} (h : 16 ≤ id.toNat) :
    lineOfId aw id =
      if (Line.addr (id.toNat - 16)).present aw = true then some (.addr (id.toNat - 16)) else none := by
  unfold lineOfId
  split
  case h_10 => simp [h]
  all_goals omega

/-- R88's table is one to one: an identifier names the one line that exists and bears it. -/
theorem lineOfId_eq_some_iff {aw : Nat} {id : BitVec 8} {l : Line} :
    lineOfId aw id = some l ↔ l.present aw = true ∧ lineId l = id := by
  constructor
  · intro h
    unfold lineOfId at h
    split at h
    case h_10 =>
      split at h
      case isTrue haddr =>
        obtain ⟨hid, hpresent⟩ := haddr
        cases h
        have h12 : id.toNat - 16 < 12 := by simp [Line.present] at hpresent; omega
        exact ⟨hpresent, BitVec.eq_of_toNat_eq (by rw [toNat_lineId_addr h12]; omega)⟩
      case isFalse => cases h
    all_goals
      rename_i hid
      cases h
      exact ⟨rfl, BitVec.eq_of_toNat_eq hid.symm⟩
  · rintro ⟨hpresent, rfl⟩
    cases l with
    | addr i =>
      have hi : i < 12 := by simp [Line.present] at hpresent; omega
      have hid := toNat_lineId_addr hi
      rw [lineOfId_of_sixteen_le (by omega), hid, Nat.add_sub_cancel_left, if_pos hpresent]
    | _ => rfl

/-- What the decoder of micro-operation words accepts (R89, R91 (d)). -/
theorem decodeUop_eq_ok_iff {aw : Nat} {w : Word} {u : Instr} : decodeUop aw w = .ok u ↔
    (∃ l, lineOfId aw (w.extractLsb' 1 8) = some l ∧ w.extractLsb' 30 2 = 1#2 ∧ w.extractLsb' 9 21 = 0#21 ∧
      u = .wl l (w.getLsbD 0)) ∨
    (w.extractLsb' 30 2 = 2#2 ∧ u = .slp (w.extractLsb' 0 30).toNat) := by
  unfold decodeUop
  split_ifs with hwl hpad hslp
  · cases lineOfId aw (w.extractLsb' 1 8) <;> simp [hwl, hpad, eq_comm]
  · simp [hwl, hpad]
  · simp [hslp, eq_comm]
  · simp [hwl, hslp]

/-- The level's bit of a WL word as a field of width 1. -/
theorem levelWord_eq (v : Level) : (if v then 1#32 else 0#32) = (BitVec.ofBool v).setWidth 32 := by
  cases v <;> rfl

theorem encode_wl_kind (l : Line) (v : Level) : (encode (.wl l v)).extractLsb' 30 2 = 1#2 := by
  simp [encode, levelWord_eq, BitVec.extractLsb'_or]

theorem encode_wl_padding (l : Line) (v : Level) : (encode (.wl l v)).extractLsb' 9 21 = 0#21 := by
  simp [encode, levelWord_eq, BitVec.extractLsb'_or]

theorem encode_wl_line (l : Line) (v : Level) : (encode (.wl l v)).extractLsb' 1 8 = lineId l := by
  simp [encode, levelWord_eq, BitVec.extractLsb'_or]

theorem encode_wl_level (l : Line) (v : Level) : (encode (.wl l v)).getLsbD 0 = v := by
  cases v <;> simp [encode]

theorem encode_slp_kind (n : Nat) : (encode (.slp n)).extractLsb' 30 2 = 2#2 := by
  simp [encode, BitVec.extractLsb'_or]

theorem encode_slp_delay (n : Nat) : (encode (.slp n)).extractLsb' 0 30 = BitVec.ofNat 30 n := by
  simp [encode, BitVec.extractLsb'_or, BitVec.extractLsb'_setWidth_of_le]

/-- Words with one value in a field have the same bits there. -/
theorem getLsbD_eq_of_field {w w' : Word} {s n i : Nat} (h : w.extractLsb' s n = w'.extractLsb' s n) (hs : s ≤ i)
    (hi : i < s + n) : w.getLsbD i = w'.getLsbD i := by
  have hbit := congrArg (BitVec.getLsbD · (i - s)) h
  have hin : i - s < n := by omega
  simpa [hin, Nat.add_sub_cancel' hs] using hbit

/-- The fields of a WL word are all its bits (R89). -/
theorem word_eq_of_wlFields {w w' : Word} (hkind : w.extractLsb' 30 2 = w'.extractLsb' 30 2)
    (hpad : w.extractLsb' 9 21 = w'.extractLsb' 9 21) (hline : w.extractLsb' 1 8 = w'.extractLsb' 1 8)
    (hlevel : w.getLsbD 0 = w'.getLsbD 0) : w = w' := by
  apply BitVec.eq_of_getLsbD_eq
  intro i hi
  rcases Nat.eq_zero_or_pos i with rfl | hpos
  · exact hlevel
  rcases Nat.lt_or_ge i 9 with h9 | h9
  · exact getLsbD_eq_of_field hline (by omega) (by omega)
  rcases Nat.lt_or_ge i 30 with h30 | h30
  · exact getLsbD_eq_of_field hpad (by omega) (by omega)
  · exact getLsbD_eq_of_field hkind (by omega) (by omega)

/-- The fields of a SLP word are all its bits (R89). -/
theorem word_eq_of_slpFields {w w' : Word} (hkind : w.extractLsb' 30 2 = w'.extractLsb' 30 2)
    (hdelay : w.extractLsb' 0 30 = w'.extractLsb' 0 30) : w = w' := by
  apply BitVec.eq_of_getLsbD_eq
  intro i hi
  rcases Nat.lt_or_ge i 30 with h30 | h30
  · exact getLsbD_eq_of_field hdelay (by omega) (by omega)
  · exact getLsbD_eq_of_field hkind (by omega) (by omega)

/-- Settles O2: the fields of a micro-operation's word are its kind and its operand, and nothing in between. -/
theorem uopWordsRoundTrip : Obligations.UopWordsRoundTrip := by
  intro aw u hu hwf
  rw [decodeUop_eq_ok_iff]
  cases u with
  | wl l v =>
    have hline : lineOfId aw ((encode (.wl l v)).extractLsb' 1 8) = some l := by
      rw [encode_wl_line]
      exact lineOfId_eq_some_iff.2 ⟨hwf, rfl⟩
    exact .inl ⟨l, hline, encode_wl_kind l v, encode_wl_padding l v, by rw [encode_wl_level]⟩
  | slp n =>
    have hn : n < 2 ^ 30 := of_decide_eq_true hwf
    refine .inr ⟨encode_slp_kind n, ?_⟩
    rw [encode_slp_delay, BitVec.toNat_ofNat, Nat.mod_eq_of_lt hn]
  | clear => cases hu
  | setPixel row col color => cases hu
  | getPixel row col => cases hu
  | refreshOnce => cases hu

/-- Settles O3: an accepted word and the word of the answer have the same fields, and the fields are all the bits. -/
theorem uopDecodingIsExact : Obligations.UopDecodingIsExact := by
  intro aw w u hdec
  rcases decodeUop_eq_ok_iff.1 hdec with ⟨l, hline, hkind, hpad, rfl⟩ | ⟨hkind, rfl⟩
  · obtain ⟨hpresent, hid⟩ := lineOfId_eq_some_iff.1 hline
    refine ⟨word_eq_of_wlFields ?_ ?_ ?_ ?_, hpresent, rfl⟩
    · rw [encode_wl_kind, hkind]
    · rw [encode_wl_padding, hpad]
    · rw [encode_wl_line, hid]
    · rw [encode_wl_level]
  · refine ⟨word_eq_of_slpFields ?_ ?_, decide_eq_true (BitVec.isLt _), rfl⟩
    · rw [encode_slp_kind, hkind]
    · rw [encode_slp_delay, BitVec.ofNat_toNat, BitVec.setWidth_eq]

/-- Settles O6, by running both decoders on the nine words. -/
theorem specWordsDecode : Obligations.SpecWordsDecode := by
  refine ⟨?_, ?_, ?_, ?_, ?_, ?_, ?_, ?_, ?_⟩ <;> decide

end Sys2Proof

/-! The operands' bits and what becomes of the instructions: colour codes (R83), the address drive (R87), the words
the sequencer issues, and the two refusals of R91. -/

namespace Sys2Proof.Machine

/-! ## Colour codes -/

section ColourBits

variable (r g b : Level)

theorem red_colorOf : red (colorOf r g b) = r := by
  cases r <;> cases g <;> cases b <;> rfl

theorem green_colorOf : green (colorOf r g b) = g := by
  cases r <;> cases g <;> cases b <;> rfl

theorem blue_colorOf : blue (colorOf r g b) = b := by
  cases r <;> cases g <;> cases b <;> rfl

theorem toNat_colorOf : (colorOf r g b).toNat = r.toNat + 2 * g.toNat + 4 * b.toNat := by
  cases r <;> cases g <;> cases b <;> rfl

end ColourBits

/-- A colour code has no bit beside red, green and blue (R83). -/
theorem color_eq_of_bits {k k' : Color} (hred : red k = red k') (hgreen : green k = green k')
    (hblue : blue k = blue k') : k = k' := by
  apply BitVec.eq_of_getLsbD_eq
  intro i hi
  interval_cases i
  · exact hred
  · exact hgreen
  · exact hblue

/-- A bit of a colour code by division (R83). -/
theorem getLsbD_eq_decide (k : Color) (i : Nat) : k.getLsbD i = decide (k.toNat / 2 ^ i % 2 = 1) :=
  Nat.testBit_eq_decide_div_mod_eq

/-- Settles O7: a composed code has the bits it was composed of, and a code is no more than its three bits. -/
theorem colourCodeBits : Obligations.ColourCodeBits := by
  refine ⟨toNat_colorOf, fun r g b => ⟨red_colorOf r g b, green_colorOf r g b, blue_colorOf r g b⟩, fun k => ?_,
    fun k => ⟨?_, getLsbD_eq_decide k 1, getLsbD_eq_decide k 2⟩⟩
  · exact color_eq_of_bits (red_colorOf ..) (green_colorOf ..) (blue_colorOf ..)
  · rw [red, getLsbD_eq_decide, pow_zero, Nat.div_one]

/-! ## The address drive -/

/-- The writes of the first `n` address lines with the bits of `a`: SETADDR(a) is these for n = AW (R95). -/
def addressWrites (a n : Nat) : List Event := (List.range n).map fun j => .write (.addr j) (addressBit a j)

theorem setAddrEvents_eq (c : Config) (a : Nat) : setAddrEvents c a = addressWrites a c.aw := rfl

/-- One line more is one write more. -/
theorem levelsAfter_addressWrites_succ (ln : Lines) (a n : Nat) :
    levelsAfter ln (addressWrites a (n + 1)) =
      setLine (levelsAfter ln (addressWrites a n)) (.addr n) (addressBit a n) := by
  simp [addressWrites, List.range_succ, levelsAfter_append, Event.levels]

/-- The first `n` address lines hold the bits of `a` once they are driven, and no other line has changed (R172). -/
theorem getLine_addressWrites (ln : Lines) (a : Nat) {n : Nat} (hn : n ≤ 12) :
    (∀ j, j < n → getLine (levelsAfter ln (addressWrites a n)) (.addr j) = addressBit a j) ∧
      ∀ l : Line, (∀ j, l ≠ .addr j) → getLine (levelsAfter ln (addressWrites a n)) l = getLine ln l := by
  induction n with
  | zero => exact ⟨fun j hj => absurd hj (Nat.not_lt_zero j), fun l _ => rfl⟩
  | succ n ih =>
    obtain ⟨hdriven, hother⟩ := ih (by omega)
    have hpresent : (Line.addr n).present 12 = true := by simp [Line.present]; omega
    rw [levelsAfter_addressWrites_succ]
    refine ⟨fun j hj => ?_, fun l hl => ?_⟩ <;> rw [getLine_setLine _ _ _ _ hpresent]
    · by_cases hjn : j = n
      · rw [hjn, if_pos rfl]
      · rw [if_neg (by simpa using hjn), hdriven j (by omega)]
    · rw [if_neg (hl n), hother l hl]

/-- Address lines that hold the bits of `a` read as `a`, as far as they reach (45_panel_observer.md R215). -/
theorem addressOnLines_eq_mod {ln : Lines} {a n : Nat} (h : ∀ j, j < n → getLine ln (.addr j) = addressBit a j) :
    addressOnLines n ln = a % 2 ^ n := by
  induction n with
  | zero => simp [addressOnLines, Nat.mod_one]
  | succ n ih =>
    have hprefix := ih fun j hj => h j (by omega)
    unfold addressOnLines at hprefix ⊢
    rw [List.range_succ, List.foldl_append, hprefix, List.foldl_cons, List.foldl_nil, h n (by omega), addressBit,
      Nat.testBit_eq_decide_div_mod_eq, Nat.mod_pow_succ]
    rcases Nat.mod_two_eq_zero_or_one (a / 2 ^ n) with hbit | hbit <;> simp [hbit]

/-- Settles O9: the drive leaves the bits of a on the AW lines, and a row address fits in them. -/
theorem addressDriveHoldsRow : Obligations.AddressDriveHoldsRow := by
  intro c ln a hw ha
  obtain ⟨hdriven, hother⟩ := getLine_addressWrites ln a (Config.aw_le_twelve hw)
  have hfits : a < 2 ^ c.aw := ha.trans_le (addressWidth_le_iff.1 le_rfl)
  refine ⟨hdriven, ?_, hother⟩
  rw [setAddrEvents_eq, addressOnLines_eq_mod hdriven, Nat.mod_eq_of_lt hfits]

/-! ## The words that the sequencer issues -/

/-- What RowScan waits for is one of the five delays (41_gpio_protocol_sequencer.md R133). -/
theorem rowStep_slp {cfg : Config} {px : Color} {a i n : Nat} (hi : i < cfg.rowLength)
    (h : rowStep cfg px a i = .issue (.slp n)) :
    n = cfg.tPre ∨ n = cfg.tHigh ∨ n = cfg.tLow ∨ n = cfg.tLat ∨ n = cfg.tDwell := by
  rcases rowStep_cases cfg px a i hi with ⟨-, e⟩ | ⟨j, -, -, e⟩ | ⟨c, j, -, hj, -, e⟩ | ⟨j, hj, -, e⟩ <;> rw [e] at h
  · cases h
  · cases h
  · interval_cases j <;> cases h <;> simp
  · interval_cases j <;> cases h <;> simp

/-- Settles O33: what RowScan issues is a well-formed micro-operation, so its word decodes to it. -/
theorem sequencerIssuesLegalWords : Obligations.SequencerIssuesLegalWords := by
  intro cfg px a i u hw hi hPre hHigh hLow hLat hDwell h
  rcases rowStep_issue hw hi h with ⟨l, v, rfl, hpresent, hr2, hg2, hb2⟩ | ⟨n, rfl⟩
  · exact ⟨uopWordsRoundTrip cfg.aw _ rfl hpresent, by simp [hr2, hg2, hb2]⟩
  · have hn : n < 2 ^ 30 := by
      rcases rowStep_slp hi h with rfl | rfl | rfl | rfl | rfl <;> assumption
    exact ⟨uopWordsRoundTrip cfg.aw _ rfl (decide_eq_true hn), by simp⟩

/-! ## Refusals -/

/-- Settles O24: WL answers a next state only where the line exists. -/
theorem wlOnAbsentLineRefused : Obligations.WlOnAbsentLineRefused := by
  intro s l v habsent
  rcases execWl_cases l v s with ⟨hpresent, -⟩ | ⟨-, hrefused⟩
  · simp [habsent] at hpresent
  · exact hrefused

/-- The host's turn on a word that does not decode (60_exceptions.md R236). -/
theorem hostStep_of_reserved {s : State} {w : Word} {rest : List Word} {e : DecodeError} (hclear : s.clearing = [])
    (hport : s.port = w :: rest) (hdec : decodeCommand w = .error e) : hostStep s = .refused (.reservedCommand w) := by
  simp [hostStep, hclear, hport, hdec]

/-- Settles O28: it is the host's turn, and its word is refused. -/
theorem stepRefusesReservedWord : Obligations.StepRefusesReservedWord := by
  intro s w rest e hw hclear hport hdec hmoves
  rw [step_of_host hw (s.turn_host_iff.2 hmoves)]
  exact hostStep_of_reserved hclear hport hdec

end Sys2Proof.Machine

/-! The commands of the framebuffer store (40_framebuffer_store.md): what CLEAR, SET_PIXEL and GET_PIXEL do in every
state, and how a CLEAR accepted during a refresh comes to its end. -/

namespace Sys2Proof.Machine

/-! ## A framebuffer in canonical form is what it reads as -/

/-- What reads otherwise than black is listed. -/
theorem Memory.mem_of_read_ne_zero {m : Memory} {k : Nat} (h : m.read k ≠ 0#3) : (k, m.read k) ∈ m := by
  induction m with
  | nil => exact absurd (Memory.read_nil k) h
  | cons e m ih =>
    obtain ⟨a, v⟩ := e
    by_cases hk : a = k
    · simp [Memory.read, hk]
    · simp only [Memory.read, hk, if_false] at h ⊢
      exact List.mem_cons_of_mem _ (ih h)

/-- An entry is read back: the indices rise, so none before it has its index. -/
theorem Memory.read_of_mem {m : Memory} (hm : m.Pairwise fun e f => e.1 < f.1) {k : Nat} {v : Color}
    (h : (k, v) ∈ m) : m.read k = v := by
  induction m with
  | nil => cases h
  | cons e m ih =>
    obtain ⟨hfirst, hrest⟩ := List.pairwise_cons.1 hm
    rcases List.mem_cons.1 h with rfl | hmem
    · simp [Memory.read]
    · have hne : e.1 ≠ k := (hfirst _ hmem).ne
      simpa [Memory.read, hne] using ih hrest hmem

theorem Memory.mem_iff {m : Memory} (hm : m.wf = true) (e : Nat × Color) :
    e ∈ m ↔ e.2 ≠ 0#3 ∧ m.read e.1 = e.2 := by
  obtain ⟨hrising, hnotBlack⟩ := m.wf_iff.1 hm
  constructor
  · exact fun h => ⟨hnotBlack e h, Memory.read_of_mem hrising h⟩
  · rintro ⟨hne, hread⟩
    have hmem := Memory.mem_of_read_ne_zero (hread ▸ hne)
    rwa [hread] at hmem

/-- Two framebuffers in canonical form that read alike are one (log 9): they list the same entries in the same
order. -/
theorem Memory.eq_of_read_eq {m n : Memory} (hm : m.wf = true) (hn : n.wf = true) (h : ∀ k, m.read k = n.read k) :
    m = n := by
  obtain ⟨hmRising, -⟩ := m.wf_iff.1 hm
  obtain ⟨hnRising, -⟩ := n.wf_iff.1 hn
  have hnodup : ∀ {l : Memory}, l.Pairwise (fun e f => e.1 < f.1) → l.Nodup := fun hl =>
    hl.imp fun hlt heq => hlt.ne (congrArg Prod.fst heq)
  have hperm : m.Perm n := (List.perm_ext_iff_of_nodup (hnodup hmRising) (hnodup hnRising)).2 fun e => by
    rw [Memory.mem_iff hm, Memory.mem_iff hn, h]
  exact hperm.eq_of_pairwise (fun _ _ _ _ hlt hgt => absurd hlt hgt.asymm) hmRising hnRising

/-- A framebuffer whose cells are black already is unchanged by CLEAR's loop (R110, R112). -/
theorem Memory.clear_clear {m : Memory} (h : m.wf = true) (n : Nat) : (m.clear n).clear n = m.clear n := by
  have hwf := Memory.clear_wf h n
  refine Memory.eq_of_read_eq (Memory.clear_wf hwf n) hwf fun k => ?_
  rw [Memory.read_clear, Memory.read_clear]
  split <;> rfl

/-! ## Each command by its case -/

section Commands

variable {s : State} {row col : Coord}

theorem exec_clear_of_idle (h : s.seq = .idle) :
    exec .clear s = .next ({ s with fb := s.fb.clear s.cfg.cellCount }.elapse 0) := by
  rcases execClear_cases s with ⟨-, e⟩ | ⟨hbusy, -⟩
  · exact e
  · simp [State.busy_eq_false h] at hbusy

theorem exec_clear_of_busy {a i : Nat} (h : s.seq = .busy a i) :
    exec .clear s = .next (({ s with clearing := List.range s.cfg.cellCount }.clearOne).elapse 0) := by
  rcases execClear_cases s with ⟨hidle, -⟩ | ⟨-, e⟩
  · simp [State.busy_eq_true h] at hidle
  · exact e

theorem exec_setPixel_of_inBounds (k : Color) (h : s.cfg.inBounds row.toNat col.toNat = true) :
    exec (.setPixel row col k) s = .next ((s.writeCell (s.cfg.cellIndex row.toNat col.toNat) k).elapse 0) := by
  rcases execSetPixel_cases row col k s with ⟨-, e⟩ | ⟨hout, -⟩
  · exact e
  · simp [h] at hout

theorem exec_setPixel_of_outOfBounds (k : Color) (h : s.cfg.inBounds row.toNat col.toNat = false) :
    exec (.setPixel row col k) s = .next (s.elapse 0) := by
  rcases execSetPixel_cases row col k s with ⟨hin, -⟩ | ⟨-, e⟩
  · simp [h] at hin
  · exact e

theorem exec_getPixel_of_inBounds (h : s.cfg.inBounds row.toNat col.toNat = true) :
    exec (.getPixel row col) s = .next ((s.respond (s.pixel row.toNat col.toNat)).elapse 0) := by
  rcases execGetPixel_cases row col s with ⟨-, e⟩ | ⟨hout, -⟩
  · exact e
  · simp [h] at hout

theorem exec_getPixel_of_outOfBounds (h : s.cfg.inBounds row.toNat col.toNat = false) :
    exec (.getPixel row col) s = .next ((s.respond (Config.outOfBoundsResponse s.draws)).elapse 0) := by
  rcases execGetPixel_cases row col s with ⟨hin, -⟩ | ⟨-, e⟩
  · simp [h] at hin
  · exact e

end Commands

theorem inBounds_eq_false {c : Config} {row col : Nat} (h : c.rows ≤ row ∨ c.cols ≤ col) :
    c.inBounds row col = false := by
  refine Bool.eq_false_iff.2 fun hin => ?_
  obtain ⟨hrow, hcol⟩ := (c.inBounds_iff row col).1 hin
  omega

/-! ## CLEAR at Idle -/

/-- Settles O10: CLEAR's loop, cell by cell, and the frame of the store's commands. -/
theorem clearWhileIdle : Obligations.ClearWhileIdle := by
  intro s hidle
  have hexec := exec_clear_of_idle hidle
  refine ⟨_, hexec, fun r c hin => ?_, fun k hk => ?_, execClear_storeFrame hexec, rfl, rfl, rfl⟩
  · exact (Memory.read_clear _ _ _).trans (if_pos (Config.cellIndex_lt hin))
  · exact (Memory.read_clear _ _ _).trans (if_neg hk.not_gt)

/-- Settles O14: the second CLEAR finds its own result, and the cells it leaves are black. -/
theorem clearIsIdempotent : Obligations.ClearIsIdempotent := by
  intro s hidle hwf
  refine ⟨_, _, exec_clear_of_idle hidle, exec_clear_of_idle hidle, ?_, fun row col hin => ?_⟩
  · simp [State.elapse, Memory.clear_clear hwf]
  · refine ⟨_, exec_getPixel_of_inBounds hin, congrArg some ?_⟩
    exact (Memory.read_clear _ _ _).trans (if_pos (Config.cellIndex_lt hin))

/-! ## CLEAR in progress -/

/-- One cell write of a CLEAR in progress (R111): it takes a cell off the list, and that cell alone turns black. -/
theorem clearOne_writes_cell {s : State} (h : s.clearing ≠ []) :
    ∃ k, (k :: s.clearOne.clearing).Perm s.clearing ∧
      ∀ j, s.clearOne.fb.read j = if j = k then 0#3 else s.fb.read j := by
  rcases s.clearOne_cases with ⟨hnil, -⟩ | ⟨i, k, hget, e⟩
  · exact absurd hnil h
  · obtain ⟨hi, rfl⟩ := List.getElem?_eq_some_iff.1 hget
    rw [e]
    exact ⟨_, List.getElem_cons_eraseIdx_perm hi, fun j => Memory.read_write s.fb _ j _⟩

/-- What is left of a list without repetition when one of its elements is taken off. -/
theorem nodup_and_mem_of_cons_perm {k : Nat} {rest l : List Nat} (h : (k :: rest).Perm l) (hl : l.Nodup) :
    rest.Nodup ∧ ∀ j, j ∈ rest ↔ j ∈ l ∧ j ≠ k := by
  obtain ⟨hk, hrest⟩ := List.nodup_cons.1 (h.nodup_iff.2 hl)
  refine ⟨hrest, fun j => ?_⟩
  rw [← h.mem_iff, List.mem_cons]
  constructor
  · exact fun hj => ⟨.inr hj, fun hjk => hk (hjk ▸ hj)⟩
  · rintro ⟨rfl | hj, hne⟩
    · exact absurd rfl hne
    · exact hj

theorem cellCount_pos {c : Config} (hw : c.wellFormed = true) : 0 < c.cellCount := by
  obtain ⟨hrows, -, hcols, -⟩ := c.wellFormed_iff.1 hw
  exact Nat.mul_pos hrows hcols

/-- Settles O11: the first of the R·C cell writes, the list being every cell once. -/
theorem clearWhileBusy : Obligations.ClearWhileBusy := by
  intro s a i hw hbusy
  have hexec := exec_clear_of_busy hbusy
  have hcells : List.range s.cfg.cellCount ≠ [] := by simpa using (cellCount_pos hw).ne'
  obtain ⟨k, hperm, hread⟩ := clearOne_writes_cell (s := { s with clearing := List.range s.cfg.cellCount }) hcells
  obtain ⟨hnodup, hleft⟩ := nodup_and_mem_of_cons_perm hperm List.nodup_range
  refine ⟨_, k, hexec, List.mem_range.1 (hperm.subset List.mem_cons_self), hread, hnodup, fun j => ?_,
    execClear_storeFrame hexec, by simp, by simp⟩
  exact (hleft j).trans (by rw [List.mem_range])

/-- The host's step while a CLEAR is in progress: its next cell, not the word on the port (log 6). -/
theorem hostStep_of_clearing {s : State} (h : s.clearing ≠ []) : hostStep s = .next (s.clearOne.elapse 0) := by
  obtain ⟨k, rest, hcons⟩ := List.exists_cons_of_ne_nil h
  simp [hostStep, hcons]

/-- A step of the machine that goes on with a CLEAR (R111), with all that it leaves alone. -/
theorem step_writes_cell {s : State} (hw : s.cfg.wellFormed = true) (hclear : s.clearing ≠ []) (hmoves : s.hostMoves) :
    ∃ t k, step s = .next t ∧ (k :: t.clearing).Perm s.clearing ∧
      (∀ j, t.fb.read j = if j = k then 0#3 else s.fb.read j) ∧ HostFrame s t ∧ t.port = s.port ∧ t.seq = s.seq := by
  have hturn := s.turn_host_iff.2 hmoves
  have hstep : step s = .next (s.beginStep.clearOne.elapse 0) := by
    rw [step_of_host hw hturn, hostStep_of_clearing (s := s.beginStep) hclear]
  obtain ⟨k, hperm, hread⟩ := clearOne_writes_cell (s := s.beginStep) hclear
  exact ⟨_, k, hstep, hperm, hread, step_host_frame hturn hstep, by simp, by simp⟩

/-- Settles O12: `step_writes_cell`, for a list without repetition. -/
theorem clearContinues : Obligations.ClearContinues := by
  intro s hw hclear hnodup hmoves
  obtain ⟨t, k, hstep, hperm, hread, ⟨-, hline, hpx, htrace, -⟩, hport, hseq⟩ := step_writes_cell hw hclear hmoves
  obtain ⟨hnodup', hleft⟩ := nodup_and_mem_of_cons_perm hperm hnodup
  exact ⟨t, k, hstep, hperm.subset List.mem_cons_self, hread, hnodup', hleft, hport, hline, hseq, hpx, htrace⟩

/-- At Idle nobody contests the host's next cell write (60_exceptions.md R241). -/
theorem hostMoves_of_clearing {s : State} (hidle : s.seq = .idle) (hclear : s.clearing ≠ []) : s.hostMoves :=
  ⟨by simp [State.hostReady, hclear], .inl (State.busy_eq_false hidle)⟩

/-- Settles O13, by induction on the number of cells left: each step takes one off the list. -/
theorem clearRunsToItsEnd : Obligations.ClearRunsToItsEnd := by
  intro s hw hidle
  induction hlen : s.clearing.length generalizing s with
  | zero =>
    have hnil := List.length_eq_zero_iff.1 hlen
    exact ⟨s, State.runsTo_zero.2 rfl, hnil, fun j => by simp [hnil], hidle, rfl, rfl, rfl⟩
  | succ n ih =>
    have hclear : s.clearing ≠ [] := List.ne_nil_of_length_eq_add_one hlen
    obtain ⟨m, k, hstep, hperm, hread, ⟨hcfg, hline, -, htrace, -⟩, hport, hseq⟩ :=
      step_writes_cell hw hclear (hostMoves_of_clearing hidle hclear)
    have hleft : m.clearing.length = n := by simpa [hlen] using hperm.length_eq
    obtain ⟨t, hrun, hnil, hcells, hidle', hport', hline', htrace'⟩ := ih m (hcfg ▸ hw) (hseq.trans hidle) hleft
    refine ⟨t, State.runsTo_succ.2 ⟨m, hstep, hrun⟩, hnil, fun j => ?_, hidle', hport'.trans hport,
      hline'.trans hline, htrace'.trans htrace⟩
    rw [hcells, hread]
    by_cases hjk : j = k <;> simp [← hperm.mem_iff, hjk]

/-! ## SET_PIXEL and GET_PIXEL -/

/-- Settles O15: the index names the cell, so a write at it changes that cell alone. -/
theorem setPixelWritesItsCell : Obligations.SetPixelWritesItsCell := by
  intro s row col k hin
  have hexec := exec_setPixel_of_inBounds k hin
  obtain ⟨-, hcol⟩ := (s.cfg.inBounds_iff _ _).1 hin
  refine ⟨_, hexec, fun r c hrc => ?_, fun j hj => Memory.read_write_of_ne s.fb k hj, execSetPixel_storeFrame hexec,
    rfl, rfl, rfl⟩
  obtain ⟨-, hc⟩ := (s.cfg.inBounds_iff r c).1 hrc
  simp [State.pixel, Memory.read_write, Config.cellIndex_inj hc hcol]

/-- Settles O16: out of bounds only time passes. -/
theorem setPixelOutOfBoundsIgnored : Obligations.SetPixelOutOfBoundsIgnored := by
  intro s row col k hout
  have hexec := exec_setPixel_of_outOfBounds k (inBounds_eq_false hout)
  exact ⟨_, hexec, rfl, execSetPixel_storeFrame hexec, rfl, rfl, rfl⟩

/-- Settles O17: in bounds the response is the cell, and nothing is written. -/
theorem getPixelAnswersItsCell : Obligations.GetPixelAnswersItsCell := by
  intro s row col hin
  have hexec := exec_getPixel_of_inBounds hin
  exact ⟨_, hexec, rfl, rfl, fun _ => rfl, execGetPixel_storeFrame hexec, rfl⟩

/-- Settles O18: out of bounds the response is this draw's free value, and the draw is used up (log 7). -/
theorem getPixelOutOfBoundsCompletes : Obligations.GetPixelOutOfBoundsCompletes := by
  intro s row col hout
  have hexec := exec_getPixel_of_outOfBounds (inBounds_eq_false hout)
  exact ⟨_, hexec, rfl, rfl, Nat.lt_succ_self _, fun _ => rfl, execGetPixel_storeFrame hexec, rfl⟩

/-- Settles O19: the cell that is read is the one that was written. -/
theorem setThenGetReturnsColour : Obligations.SetThenGetReturnsColour := by
  intro s row col k hin
  refine ⟨_, _, exec_setPixel_of_inBounds k hin, exec_getPixel_of_inBounds hin, congrArg some ?_⟩
  exact Memory.read_write_same s.fb _ k

end Sys2Proof.Machine

/-! RowScan and the sequencer's step (41_gpio_protocol_sequencer.md R130, R133 to R136): the entry at each position,
that no data decides which entry stands where, and that every step of the sequencer completes. -/

namespace Sys2Proof.Machine

/-! ## The entry at each position -/

section Entries

variable (c : Config) (px : Color) (a : Nat)

theorem rowStep_zero : rowStep c px a 0 = .issue (.wl .oe true) := if_pos rfl

theorem rowStep_address {j : Nat} (hj : j < c.aw) :
    rowStep c px a (1 + j) = .issue (.wl (.addr j) (addressBit a j)) := by
  rw [rowStep, if_neg (by omega), if_pos (by omega), Nat.add_sub_cancel_left]

theorem rowStep_tail (j : Nat) : rowStep c px a (c.latchBase + j) = tailStep c j := by
  rw [rowStep, if_neg (by unfold Config.latchBase; omega), if_neg (by unfold Config.latchBase; omega),
    if_neg (by omega), Nat.add_sub_cancel_left]

end Entries

/-- Settles O31: each part of RowScan by its equation. -/
theorem rowScanEntries : Obligations.RowScanEntries := by
  intro c px a
  refine ⟨rowStep_zero c px a, fun j hj => rowStep_address c px a hj, ?_, ?_⟩
  · rintro col b hcol rfl
    have hentry : ∀ j, j < 10 → rowStep c px a (1 + c.aw + 10 * col + j) = columnStep c px a col j :=
      fun j hj => rowStep_column c px a hcol hj
    refine ⟨?_, ?_, ?_, ?_, ?_, ?_, ?_, ?_, ?_, ?_⟩ <;> exact hentry _ (by omega)
  · rintro e rfl
    have hentry : ∀ j, rowStep c px a (1 + c.aw + 10 * c.cols + j) = tailStep c j := rowStep_tail c px a
    exact ⟨hentry 0, hentry 1, hentry 2, hentry 3, hentry 4, hentry 5, c.rowLength_eq⟩

theorem columnStep_sameKind (c : Config) (px px' : Color) (a a' col : Nat) {j : Nat} (hj : j < 10) :
    (columnStep c px a col j).sameKind (columnStep c px' a' col j) := by
  interval_cases j <;> exact rfl

theorem tailStep_sameKind (c : Config) {j : Nat} (hj : j < 6) : (tailStep c j).sameKind (tailStep c j) := by
  interval_cases j <;> exact rfl

/-- Settles O32: the part of RowScan that a position belongs to is told by the position alone. -/
theorem rowScanIgnoresData : Obligations.RowScanIgnoresData := by
  intro c px px' a a' i hi
  rcases rowStep_cases c px a i hi with ⟨rfl, e⟩ | ⟨j, hj, rfl, e⟩ | ⟨col, j, hcol, hj, rfl, e⟩ | ⟨j, hj, rfl, e⟩ <;>
    rw [e]
  · rw [rowStep_zero]; exact rfl
  · rw [rowStep_address c px' a' hj]; exact rfl
  · rw [rowStep_column c px' a' hcol hj]; exact columnStep_sameKind c px px' a a' col hj
  · rw [rowStep_tail]; exact tailStep_sameKind c hj

/-! ## REFRESH_ONCE at Idle, and the end of a run -/

theorem exec_refreshOnce_of_idle {s : State} (h : s.seq = .idle) :
    exec .refreshOnce s = .next ({ s with seq := .busy 0 0 }.elapse 0) := by
  rcases execRefreshOnce_cases s with ⟨-, e⟩ | ⟨hbusy, -⟩
  · exact e
  · simp [State.busy_eq_false h] at hbusy

/-- Settles O20: the acceptance writes SEQ, and otherwise only time passes. -/
theorem refreshAcceptedAtIdle : Obligations.RefreshAcceptedAtIdle := by
  intro s hidle
  exact ⟨_, exec_refreshOnce_of_idle hidle, rfl, rfl, fun _ => rfl, rfl, rfl, rfl, rfl, rfl, rfl, rfl, rfl, rfl, rfl⟩

/-- Beside `step_of_host` and `step_of_sequencer`: the branch of the step where no agent is ready (log 17). -/
theorem step_of_none {s : State} (hw : s.cfg.wellFormed = true) (ht : s.turn = none) : step s = .next s.beginStep := by
  simp [step, stepOf, hw, ht]

theorem State.finished_iff (s : State) :
    s.finished = true ↔ s.port = [] ∧ s.clearing = [] ∧ s.busy = false := by
  simp [State.finished, and_assoc]

/-- Settles O36: a finished run leaves no agent ready, and no turn was contested. -/
theorem finishedRunRests : Obligations.FinishedRunRests := by
  intro s hw hfinished
  obtain ⟨hport, hclear, hidle⟩ := s.finished_iff.1 hfinished
  have hready : s.hostReady = false := by simp [State.hostReady, hport, hclear]
  rw [step_of_none hw (s.turn_none_iff.2 ⟨hready, hidle⟩)]
  simp [State.beginStep, State.contested, hidle]

/-! ## The sequencer's step -/

section SequencerStep

variable {s : State} {a i : Nat}

theorem sequencerStep_of_read {r k : Nat} (hseq : s.seq = .busy a i) (hr : positionInRange s.cfg a i = true)
    (he : rowStep s.cfg s.px a i = .read r k) : sequencerStep s = .next (((s.readCell r k).elapse 0).advance a i) := by
  simp [sequencerStep, hseq, hr, he]

theorem sequencerStep_of_issue {u : Instr} {t : State} (hseq : s.seq = .busy a i)
    (hr : positionInRange s.cfg a i = true) (he : rowStep s.cfg s.px a i = .issue u) (hu : exec u s = .next t) :
    sequencerStep s = .next (t.advance a i) := by
  simp [sequencerStep, hseq, hr, he, hu]

/-- While BUSY = 1 a step uses up an entry of the schedule exactly where the host was ready too (log 4). -/
theorem beginStep_of_busy (h : s.busy = true) :
    s.beginStep = { s with resp := none, sched := if s.hostReady then s.sched.tail else s.sched } := by
  simp [State.beginStep, State.contested, h]

end SequencerStep

/-- Settles O29: the sequencer's branch of the step, at an entry that issues a micro-operation. -/
theorem stepRunsSequencerEntry : Obligations.StepRunsSequencerEntry := by
  intro s a i u t hw hseq hr hmoves he hu
  rw [← beginStep_of_busy (State.busy_eq_true hseq)] at hu
  rw [step_of_sequencer hw (s.turn_sequencer_iff.2 hmoves)]
  exact sequencerStep_of_issue hseq hr he hu

/-- What RowScan issues never stops the machine: its lines exist (R133, 30_encoding.md R91 (d)). -/
theorem exec_rowStep_completes {s : State} {px : Color} {a i : Nat} {u : Instr} (hw : s.cfg.wellFormed = true)
    (hi : i < s.cfg.rowLength) (he : rowStep s.cfg px a i = .issue u) : ∃ t, exec u s = .next t := by
  rcases rowStep_issue hw hi he with ⟨l, v, rfl, hpresent, -⟩ | ⟨n, rfl⟩
  · rcases execWl_cases l v s with ⟨-, e⟩ | ⟨habsent, -⟩
    · exact ⟨_, e⟩
    · simp [hpresent] at habsent
  · exact ⟨_, rfl⟩

/-- The sequencer's turn always ends in a next state (R135, R136). -/
theorem step_sequencer_completes {s : State} {a i : Nat} (hw : s.cfg.wellFormed = true) (hseq : s.seq = .busy a i)
    (hr : positionInRange s.cfg a i = true) (ht : s.turn = some .sequencer) : ∃ t, step s = .next t := by
  rw [step_of_sequencer hw ht]
  cases he : rowStep s.cfg s.px a i with
  | read r k => exact ⟨_, sequencerStep_of_read (s := s.beginStep) hseq hr he⟩
  | issue u =>
    have hi := ((positionInRange_iff s.cfg a i).1 hr).2
    obtain ⟨t, hu⟩ := exec_rowStep_completes (s := s.beginStep) hw hi he
    exact ⟨_, sequencerStep_of_issue (s := s.beginStep) hseq hr he hu⟩

/-- Settles O34: the step completes, and every step of the sequencer advances SEQ and leaves the port alone. -/
theorem sequencerAlwaysAdvances : Obligations.SequencerAlwaysAdvances := by
  intro s a i hinv hseq hmoves
  have ht := s.turn_sequencer_iff.2 hmoves
  have hr : positionInRange s.cfg a i = true := by simpa [hseq, seqInRange] using hinv.position
  obtain ⟨t, h⟩ := step_sequencer_completes hinv.configured hseq hr ht
  obtain ⟨_, _, hseq', -, hadvance, -, -, hclear, hport, -⟩ := step_sequencer_cases ht h
  cases hseq.symm.trans hseq'
  exact ⟨t, h, hadvance, hport, hclear⟩

end Sys2Proof.Machine

/-! The lines during a refresh (41_gpio_protocol_sequencer.md R133, R137, R138): what each entry of RowScan drives,
that every step keeps the lines at what RowScan has driven, and what they are when BUSY falls. -/

namespace Sys2Proof.Machine

/-! ## What an entry of RowScan does to the lines -/

/-- The lines after an entry of RowScan: READ drives none, a micro-operation drives what its event says. -/
def RowStep.drive (e : RowStep) (ln : Lines) : Lines := levelsAfter ln e.events

theorem step_sequencer_line {s t : State} {a i : Nat} (hseq : s.seq = .busy a i) (ht : s.turn = some .sequencer)
    (h : step s = .next t) : t.line = (rowStep s.cfg s.px a i).drive s.line := by
  obtain ⟨_, _, hseq', -, -, -, -, -, -, -, -, -, hentry⟩ := step_sequencer_cases ht h
  cases hseq.symm.trans hseq'
  rcases hentry with ⟨r, k, he, -, hline, -⟩ | ⟨l, v, he, -, -, hline, -⟩ | ⟨n, he, -, hline, -⟩ <;> rw [he, hline] <;>
    rfl

/-- Within a column OE and the address lines keep still (R138). -/
theorem columnStep_drive_frame (c : Config) (px : Color) (a col : Nat) {j : Nat} (hj : j < 10) (ln : Lines) :
    ((columnStep c px a col j).drive ln).oe = ln.oe ∧ ((columnStep c px a col j).drive ln).addr = ln.addr := by
  interval_cases j <;> exact ⟨rfl, rfl⟩

/-- After the columns OE falls at e+4 and the address lines keep still. -/
theorem tailStep_drive_frame (c : Config) {j : Nat} (hj : j < 6) (ln : Lines) :
    ((tailStep c j).drive ln).oe = (decide (j ≠ 4) && ln.oe) ∧ ((tailStep c j).drive ln).addr = ln.addr := by
  interval_cases j <;> exact ⟨rfl, rfl⟩

/-- Within a column each entry drives what the next position asks for; READ is the one entry that may load PX. -/
theorem ColumnLines.succ {c : Config} {ln : Lines} {px px' : Color} {a col j : Nat} (h : ColumnLines ln px col j)
    (hj : j < 9) (hpx : 0 < j → px' = px) :
    ColumnLines ((columnStep c px a col j).drive ln) px' col (j + 1) := by
  obtain ⟨hred, hgreen, hblue, hhigh, hlow⟩ := h
  rcases Nat.eq_zero_or_pos j with rfl | hpos
  · exact ⟨by omega, by omega, by omega, by omega, fun hclk => hlow (by omega)⟩
  · obtain rfl := hpx hpos
    interval_cases j <;> constructor <;>
      simp_all [columnStep, RowStep.drive, RowStep.events, Event.levels, setLine]

/-- After a column's last entry CLK is low for the next column. -/
theorem ColumnLines.next {c : Config} {ln : Lines} {px px' : Color} {a col : Nat} (h : ColumnLines ln px col 9) :
    ColumnLines ((columnStep c px a col 9).drive ln) px' (col + 1) 0 := by
  have hlow : ln.clk = false := h.clkLow (by simp)
  constructor <;> intro hpos
  case clkLow => exact hlow
  all_goals omega

/-- After the last column the colour lines hold PX's bits and CLK is low. -/
theorem ColumnLines.toTail {c : Config} {ln : Lines} {px : Color} {a col : Nat} (h : ColumnLines ln px col 9) :
    TailLines ((columnStep c px a col 9).drive ln) px 0 := by
  constructor
  case red => exact h.red (by omega)
  case green => exact h.green (by omega)
  case blue => exact h.blue (by omega)
  case clk => exact h.clkLow (by simp)
  all_goals omega

/-- The colour lines and CLK keep still after the columns, and the latch pulse drives LAT as asked for. -/
theorem TailLines.succ {c : Config} {ln : Lines} {px : Color} {j : Nat} (h : TailLines ln px j) (hj : j < 6) :
    TailLines ((tailStep c j).drive ln) px (j + 1) := by
  obtain ⟨hred, hgreen, hblue, hclk, hhigh, hlow⟩ := h
  interval_cases j <;> constructor <;>
    simp_all [tailStep, RowStep.drive, RowStep.events, Event.levels, setLine]

/-! ## What the lines hold at each position, by its part of RowScan -/

/-- The address lines hold row `a`. -/
def HoldsAddress (c : Config) (ln : Lines) (a : Nat) : Prop :=
  ∀ j, j < c.aw → getLine ln (.addr j) = addressBit a j

theorem HoldsAddress.congr {c : Config} {ln ln' : Lines} {a : Nat} (h : HoldsAddress c ln a)
    (haddr : ln'.addr = ln.addr) : HoldsAddress c ln' a := by
  intro j hj
  rw [getLine, haddr]
  exact h j hj

section RowLines

variable {c : Config} {ln : Lines} {px : Color} {a : Nat}

/-- During the address drive, and at the first READ: OE is inactive and the first `n` address lines are driven. -/
theorem rowLines_head {n : Nat} (hn : n ≤ c.aw) (hcols : 0 < c.cols) (hoe : ln.oe = true)
    (haddr : ∀ j, j < n → getLine ln (.addr j) = addressBit a j) : RowLines c ln px a (1 + n) where
  outputEnable _ := by rw [hoe, eq_comm, decide_eq_true_iff]; unfold Config.latchBase; omega
  address j _ hj := haddr j (by omega)
  column col j _ _ h := by
    obtain ⟨rfl, rfl⟩ : col = 0 ∧ j = 0 := by unfold Config.columnBase at h; omega
    constructor <;> omega
  tail j _ h := by unfold Config.latchBase at h; omega

theorem rowLines_column_iff {col j : Nat} (hcol : col < c.cols) (hj : j < 10) :
    RowLines c ln px a (c.columnBase col + j) ↔ ln.oe = true ∧ HoldsAddress c ln a ∧ ColumnLines ln px col j := by
  have hoe : decide (c.columnBase col + j ≤ c.latchBase + 4) = true :=
    decide_eq_true (by unfold Config.columnBase Config.latchBase; omega)
  constructor
  · intro h
    refine ⟨(h.outputEnable ?_).trans hoe, fun k hk => h.address k hk ?_, h.column col j hcol hj rfl⟩ <;>
      unfold Config.columnBase <;> omega
  · rintro ⟨hline, haddr, hcolumn⟩
    refine ⟨fun _ => hline.trans hoe.symm, fun k hk _ => haddr k hk, fun col' j' _ hj' h => ?_, fun j' _ h => ?_⟩
    · obtain ⟨rfl, rfl⟩ : col' = col ∧ j' = j := by unfold Config.columnBase at h; omega
      exact hcolumn
    · unfold Config.columnBase Config.latchBase at h; omega

theorem rowLines_tail_iff {j : Nat} (hj : j < 6) :
    RowLines c ln px a (c.latchBase + j) ↔
      ln.oe = decide (j ≤ 4) ∧ HoldsAddress c ln a ∧ TailLines ln px j := by
  have hoe : decide (c.latchBase + j ≤ c.latchBase + 4) = decide (j ≤ 4) := by simp
  constructor
  · intro h
    refine ⟨(h.outputEnable ?_).trans hoe, fun k hk => h.address k hk ?_, h.tail j hj rfl⟩ <;>
      unfold Config.latchBase <;> omega
  · rintro ⟨hline, haddr, htail⟩
    refine ⟨fun _ => hline.trans hoe.symm, fun k hk _ => haddr k hk, fun col' j' hcol' hj' h => ?_, fun j' _ h => ?_⟩
    · unfold Config.columnBase Config.latchBase at h; omega
    · obtain rfl : j' = j := by omega
      exact htail

/-! ## From each position to the next -/

theorem rowLines_after_disable (hcols : 0 < c.cols) (px' : Color) :
    RowLines c ((rowStep c px a 0).drive ln) px' a (0 + 1) :=
  rowLines_head (n := 0) (Nat.zero_le _) hcols rfl fun j hj => absurd hj (Nat.not_lt_zero j)

theorem RowLines.after_address (hw : c.wellFormed = true) {j : Nat} (hj : j < c.aw) (px' : Color)
    (h : RowLines c ln px a (1 + j)) : RowLines c ((rowStep c px a (1 + j)).drive ln) px' a (1 + j + 1) := by
  obtain ⟨-, -, hcols, -⟩ := c.wellFormed_iff.1 hw
  have haw := Config.aw_le_twelve hw
  have hoe : ln.oe = true := by
    rw [h.outputEnable (by omega), decide_eq_true_iff]; unfold Config.latchBase; omega
  have hpresent : (Line.addr j).present 12 = true := by simp [Line.present]; omega
  rw [rowStep_address c px a hj, Nat.add_assoc]
  refine rowLines_head hj hcols hoe fun k hk => (getLine_setLine ln _ _ _ hpresent).trans ?_
  by_cases hkj : k = j
  · rw [hkj, if_pos rfl]
  · rw [if_neg (by simpa using hkj), h.address k (by omega) (by omega)]

theorem RowLines.after_column {col j : Nat} (hcol : col < c.cols) (hj : j < 10) {px' : Color}
    (hpx : 0 < j → px' = px) (h : RowLines c ln px a (c.columnBase col + j)) :
    RowLines c ((rowStep c px a (c.columnBase col + j)).drive ln) px' a (c.columnBase col + j + 1) := by
  obtain ⟨hoe, haddr, hcolumn⟩ := (rowLines_column_iff hcol hj).1 h
  obtain ⟨hoe', haddr'⟩ := columnStep_drive_frame c px a col hj ln
  rw [rowStep_column c px a hcol hj]
  rcases Nat.lt_or_eq_of_le (Nat.le_of_lt_succ hj) with hlt | rfl
  · exact (rowLines_column_iff hcol (by omega)).2 ⟨hoe'.trans hoe, haddr.congr haddr', hcolumn.succ hlt hpx⟩
  · rcases Nat.lt_or_eq_of_le (Nat.succ_le_of_lt hcol) with hlt | hlast
    · rw [show c.columnBase col + 9 + 1 = c.columnBase (col + 1) + 0 by unfold Config.columnBase; omega]
      exact (rowLines_column_iff hlt (by omega)).2 ⟨hoe'.trans hoe, haddr.congr haddr', hcolumn.next⟩
    · obtain rfl := hpx (by omega)
      rw [show c.columnBase col + 9 + 1 = c.latchBase + 0 by unfold Config.columnBase Config.latchBase; omega]
      exact (rowLines_tail_iff (by omega)).2 ⟨hoe'.trans hoe, haddr.congr haddr', hcolumn.toTail⟩

theorem RowLines.after_tail {j : Nat} (hj : j < 5) (h : RowLines c ln px a (c.latchBase + j)) :
    RowLines c ((rowStep c px a (c.latchBase + j)).drive ln) px a (c.latchBase + j + 1) := by
  obtain ⟨hoe, haddr, htail⟩ := (rowLines_tail_iff (by omega)).1 h
  obtain ⟨hoe', haddr'⟩ := tailStep_drive_frame c (j := j) (by omega) ln
  rw [rowStep_tail]
  refine (rowLines_tail_iff (by omega)).2 ⟨?_, haddr.congr haddr', htail.succ (by omega)⟩
  rw [hoe', hoe, ← Bool.decide_and]
  exact decide_eq_decide.2 (by omega)

/-- No READ stands after the columns. -/
theorem tailStep_issue (c : Config) (j : Nat) : ∃ u, tailStep c j = .issue u := by
  unfold tailStep
  split <;> exact ⟨_, rfl⟩

/-- Each entry of RowScan drives what its next position asks for: the four parts of the row. -/
theorem RowLines.succ {i : Nat} {px' : Color} (hw : c.wellFormed = true) (hi : i + 1 < c.rowLength)
    (h : RowLines c ln px a i) (hpx : ∀ u, rowStep c px a i = .issue u → px' = px) :
    RowLines c ((rowStep c px a i).drive ln) px' a (i + 1) := by
  obtain ⟨-, -, hcols, -⟩ := c.wellFormed_iff.1 hw
  rcases rowStep_cases c px a i (by omega) with
    ⟨rfl, -⟩ | ⟨j, hj, rfl, -⟩ | ⟨col, j, hcol, hj, rfl, e⟩ | ⟨j, hj, rfl, e⟩
  · exact rowLines_after_disable hcols px'
  · exact h.after_address hw hj px'
  · refine h.after_column hcol hj fun hpos => ?_
    obtain ⟨j, rfl⟩ : ∃ k, j = k + 1 := ⟨j - 1, by omega⟩
    obtain ⟨u, hu⟩ := columnStep_issue c px a col (j := j) (by omega)
    exact hpx u (e.trans hu)
  · obtain ⟨u, hu⟩ := tailStep_issue c j
    obtain rfl := hpx u (e.trans hu)
    exact h.after_tail (by rw [c.rowLength_eq] at hi; omega)

end RowLines

/-! ## Every step keeps the lines at what RowScan has driven -/

theorem linesFollow_iff {s : State} {a i : Nat} (hseq : s.seq = .busy a i) :
    s.linesFollow ↔ RowLines s.cfg s.line s.px a i := by
  rw [State.linesFollow, hseq]

/-- `State.linesFollow` looks at LINE, SEQ, PX and the parameters only. -/
theorem State.linesFollow.congr {s t : State} (h : s.linesFollow) (hcfg : t.cfg = s.cfg) (hline : t.line = s.line)
    (hseq : t.seq = s.seq) (hpx : t.px = s.px) : t.linesFollow := by
  rw [State.linesFollow, hcfg, hline, hseq, hpx]
  exact h

/-- At the first step of a row nothing is asked of the lines. -/
theorem linesFollow_of_row_start {s : State} {a : Nat} (hseq : s.seq = .busy a 0) : s.linesFollow :=
  (linesFollow_iff hseq).2 (rowLines_zero s.cfg s.line s.px a)

theorem step_host_keeps_linesFollow {s t : State} (hs : s.linesFollow) (ht : s.turn = some .host)
    (h : step s = .next t) : t.linesFollow := by
  obtain ⟨hcfg, hline, hpx, -, -⟩ := step_host_frame ht h
  rcases step_host_seq ht h with hseq | hstart
  · exact hs.congr hcfg hline hseq hpx
  · exact linesFollow_of_row_start hstart.started

theorem step_sequencer_keeps_linesFollow {s t : State} (hs : s.linesFollow) (ht : s.turn = some .sequencer)
    (h : step s = .next t) : t.linesFollow := by
  have hw := (step_cases h).1
  obtain ⟨a, i, hseq, hr, hadvance, hcfg, -⟩ := step_sequencer_cases ht h
  rcases advanceSeq_cases hr with ⟨hnext, e⟩ | ⟨-, -, e⟩ | ⟨-, -, e⟩ <;> rw [e] at hadvance
  · rw [linesFollow_iff hadvance, hcfg, step_sequencer_line hseq ht h]
    refine ((linesFollow_iff hseq).1 hs).succ hw hnext fun u hu => ?_
    rcases step_sequencer_px hseq ht h with ⟨r, k, he, -⟩ | ⟨-, -, hpx⟩
    · cases he.symm.trans hu
    · exact hpx
  · exact linesFollow_of_row_start hadvance
  · exact State.linesFollow_of_idle hadvance

/-- Settles O40, by which agent moves. -/
theorem stepKeepsLinesFollow : Obligations.StepKeepsLinesFollow := by
  intro s t hs h
  rcases (step_cases h).2 with ⟨-, rfl⟩ | ⟨hturn, -⟩ | ⟨hturn, -⟩
  · exact hs.congr rfl rfl rfl rfl
  · exact step_host_keeps_linesFollow hs hturn h
  · exact step_sequencer_keeps_linesFollow hs hturn h

/-! ## While OE is active -/

/-- OE is active only before the output disable and before the dwell (R133, R138). -/
theorem RowLines.eq_of_enabled {c : Config} {ln : Lines} {px : Color} {a i : Nat} (h : RowLines c ln px a i)
    (hi : i < c.rowLength) (hoe : ln.oe = false) : i = 0 ∨ i = c.latchBase + 5 := by
  by_contra hne
  have hlate := h.outputEnable (by omega)
  rw [hoe, eq_comm, decide_eq_false_iff_not] at hlate
  rw [c.rowLength_eq] at hi
  omega

/-- Settles O42: of the two entries that stand where OE is active, one writes OE and the other waits. -/
theorem noLineMovesWhileEnabled : Obligations.NoLineMovesWhileEnabled := by
  intro s t hs hoe h l hl
  rcases (step_cases h).2 with ⟨-, rfl⟩ | ⟨hturn, -⟩ | ⟨hturn, -⟩
  · rfl
  · rw [(step_host_frame hturn h).line]
  · obtain ⟨a, i, hseq, hr, -⟩ := step_sequencer_cases hturn h
    have hi := ((positionInRange_iff s.cfg a i).1 hr).2
    rw [step_sequencer_line hseq hturn h]
    rcases ((linesFollow_iff hseq).1 hs).eq_of_enabled hi hoe with rfl | rfl
    · rw [rowStep_zero]
      exact (getLine_setLine s.line .oe l true rfl).trans (if_neg hl)
    · rw [rowStep_tail]
      rfl

/-! ## When BUSY falls -/

/-- What the last row leaves on the lines (41_gpio_protocol_sequencer.md R137). -/
structure LastRowLines (c : Config) (ln : Lines) (px : Color) : Prop where
  enabled : ln.oe = false
  clk : ln.clk = false
  lat : ln.lat = false
  address : HoldsAddress c ln (c.rows - 1)
  red : ln.r1 = red px
  green : ln.g1 = green px
  blue : ln.b1 = blue px

theorem RowLines.lastRowLines {c : Config} {ln : Lines} {px : Color}
    (h : RowLines c ln px (c.rows - 1) (c.latchBase + 5)) : LastRowLines c ln px := by
  obtain ⟨hoe, haddr, hred, hgreen, hblue, hclk, -, hlow⟩ := (rowLines_tail_iff (by omega)).1 h
  exact ⟨hoe, hclk, hlow (by omega), haddr, hred, hgreen, hblue⟩

/-- The step that lowers BUSY is the last row's dwell: it moves no line and not PX. -/
theorem step_lowers_busy_frame {s t : State} (h : step s = .next t) (hs : s.busy = true) (ht : t.busy = false) :
    s.seq = .busy (s.cfg.rows - 1) (s.cfg.latchBase + 5) ∧ t.line = s.line ∧ t.px = s.px := by
  have hseq := step_lowers_busy h hs ht
  rw [s.cfg.rowLength_eq] at hseq
  refine ⟨hseq, ?_⟩
  rcases (step_cases h).2 with ⟨-, rfl⟩ | ⟨hturn, -⟩ | ⟨hturn, -⟩
  · exact ⟨rfl, rfl⟩
  · obtain ⟨-, hline, hpx, -, -⟩ := step_host_frame hturn h
    exact ⟨hline, hpx⟩
  · have hline := step_sequencer_line hseq hturn h
    have hpx := step_sequencer_px hseq hturn h
    rw [show s.cfg.latchBase + 6 - 1 = s.cfg.latchBase + 5 from rfl, rowStep_tail] at hline hpx
    refine ⟨hline, ?_⟩
    rcases hpx with ⟨r, k, he, -⟩ | ⟨-, -, hpx⟩
    · cases he
    · exact hpx

theorem step_leaves_lastRowLines {s t : State} (hs : s.linesFollow) (hbusy : s.busy = true) (h : step s = .next t)
    (hidle : t.busy = false) : LastRowLines s.cfg t.line t.px := by
  obtain ⟨hseq, hline, hpx⟩ := step_lowers_busy_frame h hbusy hidle
  rw [hline, hpx]
  exact ((linesFollow_iff hseq).1 hs).lastRowLines

/-! ## PX after the last READ -/

/-- Only the columns' first entries are READs (R133). -/
theorem rowStep_issue_of_after_reads {c : Config} (px : Color) (a : Nat) {i : Nat} (hcols : 0 < c.cols)
    (hafter : c.columnBase (c.cols - 1) < i) (hi : i < c.rowLength) : ∃ u, rowStep c px a i = .issue u := by
  rcases rowStep_cases c px a i hi with ⟨-, e⟩ | ⟨j, -, -, e⟩ | ⟨col, j, hcol, hj, rfl, e⟩ | ⟨j, -, -, e⟩
  · exact ⟨_, e⟩
  · exact ⟨_, e⟩
  · obtain ⟨j, rfl⟩ : ∃ k, j = k + 1 := ⟨j - 1, by unfold Config.columnBase at hafter; omega⟩
    obtain ⟨u, hu⟩ := columnStep_issue c px a col (j := j) (by omega)
    exact ⟨u, e.trans hu⟩
  · obtain ⟨u, hu⟩ := tailStep_issue c j
    exact ⟨u, e.trans hu⟩

theorem columnBase_last_lt {c : Config} (hcols : 0 < c.cols) : c.columnBase (c.cols - 1) + 1 < c.rowLength := by
  unfold Config.columnBase Config.rowLength
  omega

theorem step_reads_last_cell {s t : State}
    (hseq : s.seq = .busy (s.cfg.rows - 1) (s.cfg.columnBase (s.cfg.cols - 1))) (ht : s.turn = some .sequencer)
    (h : step s = .next t) : t.holdsLastRead (s.pixel (s.cfg.rows - 1) (s.cfg.cols - 1)) := by
  obtain ⟨-, -, hcols, -⟩ := s.cfg.wellFormed_iff.1 (step_cases h).1
  have hlast := columnBase_last_lt hcols
  have hpx := step_sequencer_px hseq ht h
  obtain ⟨_, _, hseq', -, hadvance, hcfg, -⟩ := step_sequencer_cases ht h
  cases hseq.symm.trans hseq'
  rw [advanceSeq, if_pos hlast] at hadvance
  refine ⟨?_, _, ?_, ?_, by rw [hcfg]; exact hadvance⟩
  · rcases hpx with ⟨r, k, he, hpx⟩ | ⟨u, he, -⟩ <;>
      cases (rowStep_column s.cfg s.px _ (col := s.cfg.cols - 1) (j := 0) (by omega) (by omega)).symm.trans he
    exact hpx
  · rw [hcfg]; exact Nat.lt_succ_self _
  · rw [hcfg]; exact hlast

theorem step_keeps_last_read {s t : State} {v : Color} (hs : s.holdsLastRead v) (h : step s = .next t) :
    t.holdsLastRead v ∨ (t.busy = false ∧ t.px = v) := by
  obtain ⟨hvalue, i, hafter, hi, hseq⟩ := hs
  obtain ⟨-, -, hcols, -⟩ := s.cfg.wellFormed_iff.1 (step_cases h).1
  rcases (step_cases h).2 with ⟨-, rfl⟩ | ⟨hturn, -⟩ | ⟨hturn, -⟩
  · exact .inl ⟨hvalue, i, hafter, hi, hseq⟩
  · obtain ⟨hcfg, -, hpx, -, -⟩ := step_host_frame hturn h
    rcases step_host_seq hturn h with hkept | hstart
    · exact .inl ⟨hpx.trans hvalue, i, hcfg ▸ hafter, hcfg ▸ hi, by rw [hkept, hcfg]; exact hseq⟩
    · exact absurd hstart.idle (by simp [State.busy_eq_true hseq])
  · have hpx : t.px = v := by
      obtain ⟨u, hu⟩ := rowStep_issue_of_after_reads s.px (s.cfg.rows - 1) hcols hafter hi
      rcases step_sequencer_px hseq hturn h with ⟨r, k, he, -⟩ | ⟨-, -, hpx⟩
      · cases hu.symm.trans he
      · exact hpx.trans hvalue
    obtain ⟨_, _, hseq', hr, hadvance, hcfg, -⟩ := step_sequencer_cases hturn h
    cases hseq.symm.trans hseq'
    rcases advanceSeq_cases hr with ⟨hnext, e⟩ | ⟨-, hrow, -⟩ | ⟨-, -, e⟩
    · exact .inl ⟨hpx, i + 1, by rw [hcfg]; omega, by rw [hcfg]; exact hnext, by rw [hcfg]; exact hadvance.trans e⟩
    · omega
    · exact .inr ⟨State.busy_eq_false (hadvance.trans e), hpx⟩

/-- Settles O49: the lines by the last row's dwell, PX by the last READ and by what stands after it. -/
theorem linesWhenBusyFalls : Obligations.LinesWhenBusyFalls := by
  refine ⟨fun s t hs hbusy h hidle => ?_, fun s t hseq hmoves h => ?_, fun s t v hs h => ?_⟩
  · obtain ⟨hoe, hclk, hlat, haddr, hred, hgreen, hblue⟩ := step_leaves_lastRowLines hs hbusy h hidle
    obtain ⟨-, -, hpx⟩ := step_lowers_busy_frame h hbusy hidle
    exact ⟨hoe, hclk, hlat, haddr, hred, hgreen, hblue, hpx⟩
  · exact step_reads_last_cell hseq (s.turn_sequencer_iff.2 hmoves) h
  · exact step_keeps_last_read hs h

end Sys2Proof.Machine

/-! The events of a row and of a frame, counted (41_gpio_protocol_sequencer.md R139, R141). -/

namespace Sys2Proof.Machine

/-- A count that adds up over lists, such as a length, a number of occurrences or the delay asked for, of `k` parts
with the same count each. -/
theorem additive_flatMap_range {α : Type} {g : List α → Nat} (hnil : g [] = 0)
    (happend : ∀ xs ys, g (xs ++ ys) = g xs + g ys) {f : Nat → List α} {n : Nat} (hf : ∀ m, g (f m) = n) (k : Nat) :
    g ((List.range k).flatMap f) = k * n := by
  induction k with
  | zero => rw [Nat.zero_mul]; exact hnil
  | succ k ih => rw [List.range_succ, List.flatMap_append, happend, ih, List.flatMap_singleton, hf, Nat.succ_mul]

theorem count_flatMap_range {f : Nat → List Event} {e : Event} {n : Nat} (hf : ∀ m, (f m).count e = n) (k : Nat) :
    ((List.range k).flatMap f).count e = k * n :=
  additive_flatMap_range List.count_nil (fun _ _ => List.count_append) hf k

theorem requestedDelay_flatMap_range {f : Nat → List Event} {n : Nat} (hf : ∀ m, requestedDelay (f m) = n) (k : Nat) :
    requestedDelay ((List.range k).flatMap f) = k * n :=
  additive_flatMap_range rfl requestedDelay_append hf k

/-! ## One row -/

/-- An event on CLK, LAT or OE: one that neither the address drive nor the colour drive makes. -/
def Event.IsControl : Event → Prop
  | .write .clk _ | .write .lat _ | .write .oe _ => True
  | .write .r1 _ | .write .g1 _ | .write .b1 _ | .write .r2 _ | .write .g2 _ | .write .b2 _ => False
  | .write (.addr _) _ => False
  | .delay _ => False

/-- How often a row turns OE off and on, raises LAT and raises CLK (R139). -/
structure RowPulses (c : Config) (es : List Event) : Prop where
  disable : es.count (.write .oe true) = 1
  enable : es.count (.write .oe false) = 1
  latch : es.count (.write .lat true) = 1
  clock : es.count (.write .clk true) = c.cols

section Row

variable (c : Config) (a : Nat) (row : Nat → Color)

theorem Event.IsControl.count_setAddrEvents {e : Event} (he : e.IsControl) : (setAddrEvents c a).count e = 0 := by
  refine List.count_eq_zero.2 fun hmem => ?_
  obtain ⟨j, -, rfl⟩ := List.mem_map.1 hmem
  exact he

theorem Event.IsControl.count_columnEvents {e : Event} (he : e.IsControl) (k : Color) :
    (columnEvents c k).count e = (clkPulseEvents c).count e := by
  have hcolours : [Event.write .r1 (red k), .write .g1 (green k), .write .b1 (blue k)].count e = 0 := by
    refine List.count_eq_zero.2 fun hmem => ?_
    simp only [List.mem_cons, List.not_mem_nil, or_false] at hmem
    rcases hmem with rfl | rfl | rfl <;> exact he
  rw [columnEvents, List.count_append, hcolours, Nat.zero_add]

/-- How often a control event stands in a row: before the columns, in each of them, and after them. -/
theorem Event.IsControl.count_rowTrace {e : Event} (he : e.IsControl) :
    (rowTrace c a row).count e =
      [Event.write .oe true].count e + c.cols * (clkPulseEvents c).count e + (rowTailEvents c).count e := by
  rw [rowTrace_eq_parts, List.count_append, List.count_append, ← List.singleton_append, List.count_append,
    he.count_setAddrEvents c a, count_flatMap_range (fun _ => he.count_columnEvents c _), Nat.add_zero, Nat.add_assoc]

/-- A row's pulses, where its parts place them: OE off before the columns, CLK in each of them, LAT and OE on after
them. -/
theorem rowTrace_pulses : RowPulses c (rowTrace c a row) := by
  have hcount : ∀ {e : Event}, e.IsControl → _ := fun he => he.count_rowTrace c a row
  constructor <;> rw [hcount (by trivial)] <;> simp [clkPulseEvents, rowTailEvents, latPulseEvents]

theorem rowTrace_length_eq : (rowTrace c a row).length = c.aw + 9 * c.cols + 7 := by
  rw [rowTrace_length, Config.columnBase]
  omega

theorem requestedDelay_setAddrEvents : requestedDelay (setAddrEvents c a) = 0 := by
  simp [requestedDelay, setAddrEvents, Function.comp_def, Event.requested]

theorem requestedDelay_columnEvents (k : Color) : requestedDelay (columnEvents c k) = c.tPre + c.tHigh + c.tLow := by
  simp [requestedDelay, columnEvents, clkPulseEvents, Event.requested]
  omega

theorem requestedDelay_rowTailEvents : requestedDelay (rowTailEvents c) = c.tLat + c.tDwell := by
  simp [requestedDelay, rowTailEvents, latPulseEvents, Event.requested]

/-- The delay that a row asks for does not depend on its colours (R141). -/
theorem requestedDelay_rowTrace : requestedDelay (rowTrace c a row) = c.rowDelay := by
  rw [rowTrace_eq_parts, requestedDelay_append, requestedDelay_append, ← List.singleton_append,
    requestedDelay_append, requestedDelay_setAddrEvents,
    requestedDelay_flatMap_range (fun _ => requestedDelay_columnEvents c _), requestedDelay_rowTailEvents]
  simp [requestedDelay, Event.requested, Config.rowDelay, Nat.add_assoc]

end Row

/-- Settles O51: the row's three parts, each counted. -/
theorem rowTraceCounts : Obligations.RowTraceCounts := by
  intro c a row
  obtain ⟨hdisable, henable, hlatch, hclock⟩ := rowTrace_pulses c a row
  exact ⟨rowTrace_length_eq c a row, requestedDelay_rowTrace c a row, hdisable, henable, hlatch, hclock⟩

/-! ## One frame -/

theorem requestedDelay_frameTrace (c : Config) (fb : Memory) :
    requestedDelay (frameTrace c fb) = c.rows * c.rowDelay :=
  requestedDelay_flatMap_range (fun a => requestedDelay_rowTrace c a _) c.rows

/-- What every row has equally often. -/
theorem count_frameTrace {c : Config} {e : Event} {n : Nat} (fb : Memory)
    (hrow : ∀ a row, (rowTrace c a row).count e = n) : (frameTrace c fb).count e = c.rows * n :=
  count_flatMap_range (fun a => hrow a _) c.rows

/-- Settles O52: every row of the frame has the counts of O51. -/
theorem frameTraceCounts : Obligations.FrameTraceCounts := by
  intro c fb
  refine ⟨?_, requestedDelay_frameTrace c fb, ?_, ?_, ?_, ?_⟩
  · exact additive_flatMap_range List.length_nil (fun _ _ => List.length_append)
      (fun a => rowTrace_length_eq c a _) c.rows
  · simpa using count_frameTrace fb fun a row => (rowTrace_pulses c a row).disable
  · simpa using count_frameTrace fb fun a row => (rowTrace_pulses c a row).enable
  · simpa using count_frameTrace fb fun a row => (rowTrace_pulses c a row).latch
  · exact count_frameTrace fb fun a row => (rowTrace_pulses c a row).clock

end Sys2Proof.Machine

/-! A whole refresh that nothing disturbs (41_gpio_protocol_sequencer.md R132, R135, R137, R140, R141): what it
renders, what it leaves on the lines and in PX, and how long it lasts at least. -/

namespace Sys2Proof.Machine

/-! ## How many steps of a refresh come before a position -/

/-- SEQ stands `n` steps after the first step of a refresh: at Busy(a, i) with n = a·L + i, or at Idle after R·L. -/
def StandsAt (c : Config) (n : Nat) : Seq → Prop
  | .idle => n = c.rows * c.rowLength
  | .busy a i => positionInRange c a i = true ∧ n = a * c.rowLength + i

theorem standsAt_start {c : Config} (hw : c.wellFormed = true) : StandsAt c 0 (.busy 0 0) :=
  ⟨seqInRange_start hw, by rw [Nat.zero_mul]⟩

/-- The advance is one step on (R135). -/
theorem standsAt_advanceSeq {c : Config} {n a i : Nat} (h : StandsAt c n (.busy a i)) :
    StandsAt c (n + 1) (advanceSeq c a i) := by
  obtain ⟨hr, rfl⟩ := h
  obtain ⟨ha, hi⟩ := (positionInRange_iff c a i).1 hr
  rcases advanceSeq_cases hr with ⟨hnext, e⟩ | ⟨hlast, hrow, e⟩ | ⟨hlast, hrow, e⟩ <;> rw [e]
  · exact ⟨(positionInRange_iff _ _ _).2 ⟨ha, hnext⟩, rfl⟩
  · refine ⟨(positionInRange_iff _ _ _).2 ⟨hrow, by omega⟩, ?_⟩
    rw [Nat.add_assoc, hlast, Nat.succ_mul, Nat.add_zero]
  · rw [StandsAt, Nat.add_assoc, hlast, ← hrow, Nat.succ_mul]

theorem StandsAt.exists_busy {c : Config} {n : Nat} {q : Seq} (h : StandsAt c n q) (hn : n < c.rows * c.rowLength) :
    ∃ a i, q = .busy a i ∧ positionInRange c a i = true := by
  cases q with
  | idle => exact absurd h hn.ne
  | busy a i =>
    obtain ⟨hr, -⟩ := h
    exact ⟨a, i, rfl, hr⟩

/-- After R·L steps no position is left. -/
theorem StandsAt.eq_idle {c : Config} {q : Seq} (h : StandsAt c (c.rows * c.rowLength) q) : q = .idle := by
  cases q with
  | idle => rfl
  | busy a i =>
    obtain ⟨hr, hn⟩ := h
    obtain ⟨ha, hi⟩ := (positionInRange_iff c a i).1 hr
    have hle : (a + 1) * c.rowLength ≤ c.rows * c.rowLength := Nat.mul_le_mul_right _ ha
    rw [Nat.succ_mul] at hle
    omega

/-! ## The run of a quiet refresh -/

/-- `t` is `n` steps into a refresh that stood at its first step in `m`: the sequencer alone has moved, and no entry
of the schedule is left that could give the host a turn (log 4). -/
structure State.QuietStep (m : State) (n : Nat) (t : State) : Prop where
  cfg : t.cfg = m.cfg
  fb : t.fb = m.fb
  port : t.port = m.port
  sched : t.sched = []
  position : StandsAt m.cfg n t.seq

/-- The intended caller waits: while BUSY = 1 it is the sequencer's turn, whatever is on the port (log 4). -/
theorem State.turn_of_waiting {s : State} (hsched : s.sched = []) (hbusy : s.busy = true) :
    s.turn = some .sequencer :=
  s.turn_sequencer_iff.2 ⟨hbusy, .inr (by simp [hsched])⟩

/-- Before the end of a quiet refresh there is a next step, and it is the sequencer's. -/
theorem State.QuietStep.succ {m u : State} {n : Nat} (hw : m.cfg.wellFormed = true) (h : m.QuietStep n u)
    (hn : n < m.cfg.rows * m.cfg.rowLength) :
    u.turn = some .sequencer ∧ ∃ t, step u = .next t ∧ m.QuietStep (n + 1) t := by
  obtain ⟨hcfg, hfb, hport, hsched, hposition⟩ := h
  obtain ⟨a, i, hseq, hr⟩ := hposition.exists_busy hn
  have hturn := State.turn_of_waiting hsched (State.busy_eq_true hseq)
  obtain ⟨t, hstep⟩ := step_sequencer_completes (hcfg ▸ hw) hseq (hcfg ▸ hr) hturn
  obtain ⟨_, _, hseq', -, hadvance, hcfg', hfb', -, hport', -, -, hsched', -⟩ := step_sequencer_cases hturn hstep
  cases hseq.symm.trans hseq'
  refine ⟨hturn, t, hstep, hcfg'.trans hcfg, hfb'.trans hfb, hport'.trans hport, ?_, ?_⟩
  · simp [hsched', hsched]
  · rw [hadvance, hcfg]
    exact standsAt_advanceSeq (hseq ▸ hposition)

/-- The induction over a quiet refresh, made once: its first `n` steps run, and lead to what every step of its
sequencer keeps. -/
theorem quietRefresh_runs {m : State} {P : State → Prop} (hw : m.cfg.wellFormed = true) (hstart : m.seq = .busy 0 0)
    (hwaits : m.sched = []) (hm : P m)
    (hkept : ∀ u t, u.turn = some .sequencer → u.cfg = m.cfg → u.fb = m.fb → P u → step u = .next t → P t) {n : Nat}
    (hn : n ≤ m.cfg.rows * m.cfg.rowLength) : ∃ t, m.runsTo n t ∧ m.QuietStep n t ∧ P t := by
  induction n with
  | zero => exact ⟨m, State.runsTo_zero.2 rfl, ⟨rfl, rfl, rfl, hwaits, hstart ▸ standsAt_start hw⟩, hm⟩
  | succ n ih =>
    obtain ⟨u, hrun, hquiet, hu⟩ := ih (by omega)
    obtain ⟨hturn, t, hstep, hquiet'⟩ := hquiet.succ hw (by omega)
    exact ⟨t, State.runsTo_add hrun (State.runsTo_succ.2 ⟨t, hstep, State.runsTo_zero.2 rfl⟩), hquiet',
      hkept u t hturn hquiet.cfg hquiet.fb hu hstep⟩

/-! ## From the acceptance of REFRESH_ONCE to its end -/

/-- The host's turn on a command (60_exceptions.md R241 (a)). -/
theorem hostStep_of_command {s : State} {w : Word} {rest : List Word} {i : Instr} (hclear : s.clearing = [])
    (hport : s.port = w :: rest) (hdec : decodeCommand w = .ok i) : hostStep s = exec i s.takeWord := by
  simp [hostStep, hclear, hport, hdec]

/-- The state in which the sequencer finds a REFRESH_ONCE just accepted (R130). -/
def State.refreshBegun (s : State) : State := { s.beginStep.takeWord with seq := .busy 0 0 }.elapse 0

theorem State.startsQuietRefresh.step_eq {s : State} (h : s.startsQuietRefresh) : step s = .next s.refreshBegun := by
  obtain ⟨hw, hidle, hclear, -, w, rest, hport, hdec⟩ := h
  have hbusy := State.busy_eq_false hidle
  have hready : s.hostReady = true := by simp [State.hostReady, hclear, hport, hdec, State.accepts, hbusy]
  rw [step_of_host hw (s.turn_host_iff.2 ⟨hready, .inl hbusy⟩),
    hostStep_of_command (s := s.beginStep) hclear hport hdec]
  exact exec_refreshOnce_of_idle hidle

/-- A whole quiet refresh, for whatever the steps of its sequencer keep (R132, R135). -/
theorem State.startsQuietRefresh.runs {s : State} {P : State → Prop} (h : s.startsQuietRefresh)
    (hm : P s.refreshBegun)
    (hkept : ∀ u t, u.turn = some .sequencer → u.cfg = s.cfg → u.fb = s.fb → P u → step u = .next t → P t) :
    ∃ t, s.runsTo (1 + s.cfg.rows * s.cfg.rowLength) t ∧ s.refreshBegun.QuietStep (s.cfg.rows * s.cfg.rowLength) t ∧
      P t := by
  have hwaits : s.refreshBegun.sched = [] := by simp [State.refreshBegun, h.waits]
  obtain ⟨t, hrun, hquiet, ht⟩ := quietRefresh_runs (m := s.refreshBegun) h.configured rfl hwaits hm hkept le_rfl
  exact ⟨t, State.runsTo_add (State.runsTo_succ.2 ⟨_, h.step_eq, State.runsTo_zero.2 rfl⟩) hrun, hquiet, ht⟩

theorem State.QuietStep.idle {m t : State} (h : m.QuietStep (m.cfg.rows * m.cfg.rowLength) t) : t.seq = .idle :=
  h.position.eq_idle

/-! ## What it renders -/

/-- The refresh that the trace `before` came before is being rendered, or stands rendered in the trace. -/
def RendersFrom (before : List Event) (s : State) : Prop :=
  s.rendering before ∨ (s.seq = .idle ∧ s.trace = before ++ frameTrace s.cfg s.fb)

/-- At its first step a refresh has rendered nothing, of whatever framebuffer. -/
theorem rendering_start {s : State} (hw : s.cfg.wellFormed = true) (hseq : s.seq = .busy 0 0) :
    s.rendering s.trace := by
  refine (rendering_iff hseq s.trace).2 ⟨seqInRange_start hw, ?_, holdsColumn_zero _ _ _⟩
  simp [eventsBefore_row]

theorem step_sequencer_keeps_rendersFrom {s t : State} {before : List Event} (hs : RendersFrom before s)
    (ht : s.turn = some .sequencer) (h : step s = .next t) : RendersFrom before t := by
  obtain ⟨a, i, hseq, -, -, hcfg, hfb, -⟩ := step_sequencer_cases ht h
  rcases hs with hrendering | ⟨hidle, -⟩
  · rw [RendersFrom, hcfg, hfb]
    exact step_sequencer_keeps_rendering hrendering ht h
  · cases hseq.symm.trans hidle

theorem RendersFrom.trace_of_idle {s : State} {before : List Event} (h : RendersFrom before s) (hidle : s.seq = .idle) :
    s.trace = before ++ frameTrace s.cfg s.fb := by
  rcases h with hrendering | ⟨-, htrace⟩
  · obtain ⟨a, i, hseq⟩ := hrendering.position
    cases hidle.symm.trans hseq
  · exact htrace

/-- Settles O56: the run of a quiet refresh with what it renders. -/
theorem refreshRendersFrame : Obligations.RefreshRendersFrame := by
  intro s h
  obtain ⟨t, hrun, hquiet, hrenders⟩ := h.runs (P := RendersFrom s.trace)
    (.inl (rendering_start (s := s.refreshBegun) h.configured rfl))
    fun _ _ hturn _ _ hu hstep => step_sequencer_keeps_rendersFrom hu hturn hstep
  have htrace := hrenders.trace_of_idle hquiet.idle
  rw [hquiet.cfg, hquiet.fb] at htrace
  exact ⟨t, hrun, hquiet.idle, htrace, hquiet.fb, hquiet.cfg, hquiet.port⟩

/-! ## How long it lasts -/

/-- Since the trace was `before` and the time `t0`, time has grown by the delays asked for at least
(44_line_primitives.md R201). -/
def CoversDelays (before : List Event) (t0 : Nat) (s : State) : Prop :=
  t0 + requestedDelay s.trace ≤ s.time + requestedDelay before

theorem step_sequencer_keeps_coversDelays {s t : State} {before : List Event} {t0 : Nat} (hs : CoversDelays before t0 s)
    (ht : s.turn = some .sequencer) (h : step s = .next t) : CoversDelays before t0 t := by
  have hgrown : s.time + requestedDelay t.trace ≤ t.time + requestedDelay s.trace := by
    obtain ⟨a, i, -, -, -, -, -, -, -, -, -, -, hentry⟩ := step_sequencer_cases ht h
    rcases hentry with ⟨r, k, -, -, -, e, -, hle⟩ | ⟨l, v, -, -, -, -, e, -, hle⟩ | ⟨n, -, -, -, e, -, hle⟩ <;> rw [e]
    · omega
    · simpa [requestedDelay, Event.requested] using hle
    · simp [requestedDelay, Event.requested]; omega
  unfold CoversDelays at hs ⊢
  omega

/-- Settles O60: the frame that the refresh appends asks for R rows' delays. -/
theorem refreshLastsAtLeast : Obligations.RefreshLastsAtLeast := by
  intro s h
  obtain ⟨t, hrun, hquiet, hrenders, hcovers⟩ := h.runs
    (P := fun u => RendersFrom s.trace u ∧ CoversDelays s.trace s.time u)
    ⟨.inl (rendering_start (s := s.refreshBegun) h.configured rfl), by simp [CoversDelays, State.refreshBegun]⟩
    fun _ _ hturn _ _ ⟨hrenders, hcovers⟩ hstep =>
      ⟨step_sequencer_keeps_rendersFrom hrenders hturn hstep, step_sequencer_keeps_coversDelays hcovers hturn hstep⟩
  have htrace := hrenders.trace_of_idle hquiet.idle
  have hcfg : t.cfg = s.cfg := hquiet.cfg
  rw [CoversDelays, htrace, requestedDelay_append, requestedDelay_frameTrace, hcfg] at hcovers
  have hlasts : s.time + s.cfg.rows * s.cfg.rowDelay ≤ t.time := by omega
  exact ⟨t, hrun, hlasts⟩

/-! ## What it leaves on the lines and in PX -/

/-- Past the last READ of the last row PX holds `v`; at Idle it still does, and the lines are the last row's (R137). -/
structure LeavesLastRow (v : Color) (s : State) : Prop where
  follow : s.linesFollow
  read : ∀ i, s.seq = .busy (s.cfg.rows - 1) i → s.cfg.columnBase (s.cfg.cols - 1) < i → s.px = v
  left : s.seq = .idle → LastRowLines s.cfg s.line s.px ∧ s.px = v

/-- At the first step of a refresh nothing has been read and BUSY has not fallen. -/
theorem leavesLastRow_start {s : State} {v : Color} (hseq : s.seq = .busy 0 0) : LeavesLastRow v s where
  follow := linesFollow_of_row_start hseq
  read i hi hafter := by
    injection hseq.symm.trans hi with _ hzero
    omega
  left hidle := by cases hseq.symm.trans hidle

theorem LeavesLastRow.holdsLastRead {s : State} {v : Color} {i : Nat} (h : LeavesLastRow v s)
    (hseq : s.seq = .busy (s.cfg.rows - 1) i) (hafter : s.cfg.columnBase (s.cfg.cols - 1) < i)
    (hi : i < s.cfg.rowLength) : s.holdsLastRead v :=
  ⟨h.read i hseq hafter, i, hafter, hi, hseq⟩

theorem step_px_of_holdsLastRead {s t : State} {v : Color} (hs : s.holdsLastRead v) (h : step s = .next t) :
    t.px = v := by
  rcases step_keeps_last_read hs h with hread | ⟨-, hpx⟩
  · exact hread.value
  · exact hpx

/-- A position inside a row is reached from the one before it only (R135). -/
theorem eq_of_advanceSeq_busy {c : Config} {a i a' i' : Nat} (hr : positionInRange c a i = true)
    (h : advanceSeq c a i = .busy a' i') (hi : 0 < i') : a = a' ∧ i + 1 = i' := by
  rcases advanceSeq_cases hr with ⟨-, e⟩ | ⟨-, -, e⟩ | ⟨-, -, e⟩ <;> cases h.symm.trans e
  · exact ⟨rfl, rfl⟩
  · omega

/-- The last READ loads the last cell, and no entry after it loads PX: what a refresh keeps of its last row. -/
theorem step_sequencer_keeps_leavesLastRow {s t : State}
    (hs : LeavesLastRow (s.pixel (s.cfg.rows - 1) (s.cfg.cols - 1)) s) (ht : s.turn = some .sequencer)
    (h : step s = .next t) : LeavesLastRow (s.pixel (s.cfg.rows - 1) (s.cfg.cols - 1)) t := by
  obtain ⟨a, i, hseq, hr, hadvance, hcfg, -⟩ := step_sequencer_cases ht h
  obtain ⟨-, hi⟩ := (positionInRange_iff s.cfg a i).1 hr
  refine ⟨stepKeepsLinesFollow s t hs.follow h, fun j hj hafter => ?_, fun hidle => ?_⟩
  · rw [hcfg] at hj hafter
    obtain ⟨rfl, rfl⟩ := eq_of_advanceSeq_busy hr (hadvance.symm.trans hj) (by omega)
    rcases Nat.lt_or_eq_of_le (Nat.le_of_lt_succ hafter) with hpast | rfl
    · exact step_px_of_holdsLastRead (hs.holdsLastRead hseq hpast hi) h
    · exact (step_reads_last_cell hseq ht h).value
  · obtain ⟨-, -, hcols, -⟩ := s.cfg.wellFormed_iff.1 (step_cases h).1
    obtain ⟨rfl, rfl⟩ := eq_last_of_advanceSeq_idle hr (hadvance.symm.trans hidle)
    have hpast := columnBase_last_lt hcols
    rw [hcfg]
    exact ⟨step_leaves_lastRowLines hs.follow (State.busy_eq_true hseq) h (State.busy_eq_false hidle),
      step_px_of_holdsLastRead (hs.holdsLastRead hseq (by omega) hi) h⟩

/-- Settles O57: what the steps keep of the last row, and that no step drives lane 2. -/
theorem refreshLeavesLines : Obligations.RefreshLeavesLines := by
  intro s h
  obtain ⟨t, hrun, hquiet, hleaves⟩ := h.runs (P := LeavesLastRow (s.pixel (s.cfg.rows - 1) (s.cfg.cols - 1)))
    (leavesLastRow_start rfl) fun u t hturn hcfg hfb hu hstep => by
      have hcell : s.pixel (s.cfg.rows - 1) (s.cfg.cols - 1) = u.pixel (u.cfg.rows - 1) (u.cfg.cols - 1) := by
        simp only [State.pixel, hcfg, hfb]
      rw [hcell] at hu ⊢
      exact step_sequencer_keeps_leavesLastRow hu hturn hstep
  obtain ⟨hlines, hpx⟩ := hleaves.left hquiet.idle
  have hcfg : t.cfg = s.cfg := hquiet.cfg
  rw [hcfg] at hlines
  obtain ⟨hoe, hclk, hlat, haddr, hred, hgreen, hblue⟩ := hlines
  have hlane2 : ∀ l, l = .r2 ∨ l = .g2 ∨ l = .b2 → getLine t.line l = getLine s.line l := fun l hl =>
    State.runsTo_induction (P := fun u => getLine u.line l = getLine s.line l)
      (fun _ _ hu hstep => (step_lane2 hstep hl).trans hu) rfl hrun
  exact ⟨t, hrun, hoe, hclk, hlat, haddr, hpx, hred, hgreen, hblue, hlane2 _ (.inl rfl), hlane2 _ (.inr (.inl rfl)),
    hlane2 _ (.inr (.inr rfl))⟩

end Sys2Proof.Machine

/-! The row reader and the bit serializer (42_row_reader_and_bit_serializer.md): the step READ, and the rising edges of
CLK and LAT in a row's waveform. -/

namespace Sys2Proof.Machine

/-! ## READ -/

theorem columnBase_succ_lt_rowLength {c : Config} {col : Nat} (hcol : col < c.cols) :
    c.columnBase col + 1 < c.rowLength := by
  unfold Config.columnBase Config.rowLength
  omega

/-- Settles O30: a column's first entry is its READ (R133), and a step further on is still inside the row. -/
theorem stepReadsCell : Obligations.StepReadsCell := by
  intro s a c hw hseq ha hc hmoves
  have hnext := columnBase_succ_lt_rowLength hc
  have hr : positionInRange s.cfg a (s.cfg.columnBase c) = true :=
    (positionInRange_iff _ _ _).2 ⟨ha, Nat.lt_of_succ_lt hnext⟩
  have hread : rowStep s.cfg s.px a (s.cfg.columnBase c) = .read a c :=
    rowStep_column s.cfg s.px a hc (j := 0) (by omega)
  refine ⟨_, (step_of_sequencer hw (s.turn_sequencer_iff.2 hmoves)).trans
    (sequencerStep_of_read (s := s.beginStep) hseq hr hread), rfl, ?_, rfl, rfl, rfl, rfl, rfl, rfl, rfl, fun _ => rfl⟩
  exact if_pos hnext

/-! ## Rising edges

In a waveform a write of 1 is a rising edge: the writes that change nothing are left out (44_line_primitives.md
R199). -/

/-- The waveform only leaves events out. -/
theorem waveform_sublist (ln : Lines) (es : List Event) : (waveform ln es).Sublist es := by
  induction es generalizing ln with
  | nil => exact List.Sublist.refl _
  | cons e es ih =>
    cases e with
    | delay n => exact (ih ln).cons_cons _
    | write l v =>
      rw [waveform]
      split
      · exact (ih ln).cons _
      · exact (ih _).cons_cons _

theorem count_waveform_eq_zero {e : Event} {es : List Event} (h : es.count e = 0) (ln : Lines) :
    (waveform ln es).count e = 0 :=
  Nat.eq_zero_of_le_zero (h ▸ (waveform_sublist ln es).count_le e)

/-- Parts that show an event equally often whatever the lines were show it so, one after the other. -/
theorem count_waveform_flatMap_range {f : Nat → List Event} {e : Event} {n : Nat}
    (hf : ∀ ln m, (waveform ln (f m)).count e = n) (ln : Lines) (k : Nat) :
    (waveform ln ((List.range k).flatMap f)).count e = k * n := by
  induction k with
  | zero => simp [waveform]
  | succ k ih =>
    rw [List.range_succ, List.flatMap_append, List.flatMap_singleton, waveform_append, List.count_append, ih, hf,
      Nat.succ_mul]

section RisingEdges

variable (c : Config) (ln : Lines)

/-- CLKPULSE first drives CLK to 0, whichever level it had. -/
theorem clkPulse_rises_once : (waveform ln (clkPulseEvents c)).count (.write .clk true) = 1 := by
  cases h : ln.clk <;> simp [clkPulseEvents, waveform, getLine, setLine, h]

/-- LATPULSE first drives LAT to 0, whichever level it had. -/
theorem latPulse_rises_once : (waveform ln (latPulseEvents c)).count (.write .lat true) = 1 := by
  cases h : ln.lat <;> simp [latPulseEvents, waveform, getLine, setLine, h]

/-- The colour drive leaves CLK alone (R152), so a column has the one rising edge of its pulse (R154). -/
theorem column_clk_rises_once (k : Color) : (waveform ln (columnEvents c k)).count (.write .clk true) = 1 := by
  rw [columnEvents, waveform_append, List.count_append, count_waveform_eq_zero (by simp), clkPulse_rises_once]

theorem rowTail_lat_rises_once : (waveform ln (rowTailEvents c)).count (.write .lat true) = 1 := by
  rw [rowTailEvents, waveform_append, List.count_append, latPulse_rises_once, count_waveform_eq_zero (by simp)]

variable (a : Nat) (row : Nat → Color)

theorem Event.IsControl.count_rowHead {e : Event} (he : e.IsControl) (hoe : e ≠ .write .oe true) :
    (Event.write .oe true :: setAddrEvents c a).count e = 0 := by
  rw [List.count_cons_of_ne hoe.symm, he.count_setAddrEvents]

/-- CLK rises in the columns only, once in each (R156). -/
theorem row_clk_rises : (waveform ln (rowTrace c a row)).count (.write .clk true) = c.cols := by
  have hcontrol : (Event.write .clk true).IsControl := trivial
  have hhead := hcontrol.count_rowHead c a (by simp)
  have htail : (rowTailEvents c).count (.write .clk true) = 0 := by simp [rowTailEvents, latPulseEvents]
  rw [rowTrace_eq_parts, waveform_append, waveform_append, List.count_append, List.count_append,
    count_waveform_eq_zero hhead, count_waveform_flatMap_range (fun ln' _ => column_clk_rises_once c ln' _),
    count_waveform_eq_zero htail]
  omega

/-- LAT rises after the columns only (43_row_mux_timer.md R174). -/
theorem row_lat_rises_once : (waveform ln (rowTrace c a row)).count (.write .lat true) = 1 := by
  have hcontrol : (Event.write .lat true).IsControl := trivial
  have hhead := hcontrol.count_rowHead c a (by simp)
  have hcolumn : ∀ k, (columnEvents c k).count (.write .lat true) = 0 := fun k => by
    rw [hcontrol.count_columnEvents]
    simp [clkPulseEvents]
  rw [rowTrace_eq_parts, waveform_append, waveform_append, List.count_append, List.count_append,
    count_waveform_eq_zero hhead, count_waveform_eq_zero (count_flatMap_range (fun _ => hcolumn _) _),
    rowTail_lat_rises_once]

end RisingEdges

/-- Settles O53: the pulses' rising edges, and none elsewhere in the row. -/
theorem risingEdgesPerRow : Obligations.RisingEdgesPerRow :=
  fun c ln a row => ⟨row_clk_rises c ln a row, row_lat_rises_once c ln a row⟩

end Sys2Proof.Machine

/-! The row multiplexer and its timer (43_row_mux_timer.md R178, 45_panel_observer.md R213 to R217): what a row's events
leave in the panel, and that the panel shows every row of a quiet refresh in its enable window. -/

namespace Sys2Proof.Machine

/-! ## The panel after a row's events -/

theorem colorOf_bits (k : Color) : colorOf (red k) (green k) (blue k) = k :=
  color_eq_of_bits (red_colorOf _ _ _) (green_colorOf _ _ _) (blue_colorOf _ _ _)

section PanelAfter

variable (c : Config) (ln : Lines) (p : Panel)

/-- The address lines move neither register of the panel: they only say which row it shows (R215). -/
theorem panelAfter_addressWrites (a n : Nat) : panelAfter c.cols ln p (addressWrites a n) = p := by
  induction n with
  | zero => rfl
  | succ n ih =>
    rw [addressWrites, List.range_succ, List.map_append, panelAfter_append, ← addressWrites, ih]
    rfl

theorem panelAfter_rowHead (a : Nat) : panelAfter c.cols ln p (.write .oe true :: setAddrEvents c a) = p :=
  panelAfter_addressWrites c _ p a c.aw

/-- A column's one rising edge of CLK shifts in the colour that its drive has put on the lines (R152, R154, R212). -/
theorem panelAfter_columnEvents (k : Color) :
    panelAfter c.cols ln p (columnEvents c k) = { p with sr := (some k :: p.sr).take c.cols } := by
  simp [columnEvents, clkPulseEvents, panelAfter, Panel.onWrite, Panel.shift, setLine, colorOf_bits]

/-- The one rising edge of LAT latches (R174, R214); the output enable and the dwell move nothing. -/
theorem panelAfter_rowTailEvents : panelAfter c.cols ln p (rowTailEvents c) = p.latch := by
  simp [rowTailEvents, latPulseEvents, panelAfter, Panel.onWrite, setLine]

/-- The stages that the first `n` columns of a row have filled: the last column driven stands in stage 0. -/
def rowStages (row : Nat → Color) (n : Nat) : List (Option Color) :=
  (List.range n).reverse.map fun col => some (row col)

theorem rowStages_succ (row : Nat → Color) (n : Nat) : rowStages row (n + 1) = some (row n) :: rowStages row n := by
  simp [rowStages, List.range_succ]

theorem rowStages_length (row : Nat → Color) (n : Nat) : (rowStages row n).length = n := by
  simp [rowStages]

/-- Column `c`'s colour stands in stage C−1−c of them (R213). -/
theorem rowInStages_rowStages (row : Nat → Color) (cols : Nat) : rowInStages cols (rowStages row cols) row := by
  refine ⟨rowStages_length row cols, fun col hcol => ?_⟩
  have hstage : cols - 1 - (cols - 1 - col) = col := by omega
  simp [rowStages, hstage, show cols - 1 - col < cols by omega]

/-- Each column pushes the stages on by one; what leaves the last of the C stages is lost (R212). -/
theorem panelAfter_columns (row : Nat → Color) (n : Nat) :
    panelAfter c.cols ln p ((List.range (n + 1)).flatMap fun col => columnEvents c (row col)) =
      { p with sr := (rowStages row (n + 1) ++ p.sr).take c.cols } := by
  induction n with
  | zero => exact panelAfter_columnEvents c ln p (row 0)
  | succ n ih =>
    rw [List.range_succ, List.flatMap_append, List.flatMap_singleton, panelAfter_append, ih, panelAfter_columnEvents,
      rowStages_succ row (n + 1), List.cons_append]
    cases c.cols with
    | zero => rfl
    | succ k => simp only [List.take_succ_cons, List.take_take, Nat.min_eq_left (Nat.le_succ k)]

/-- Whatever the lines and the panel held, a row's events leave the row, and nothing else, in both registers
(R213, R214). -/
theorem panelAfter_rowTrace (hcols : 0 < c.cols) (a : Nat) (row : Nat → Color) :
    panelAfter c.cols ln p (rowTrace c a row) = { sr := rowStages row c.cols, latched := rowStages row c.cols } := by
  obtain ⟨n, hn⟩ : ∃ n, c.cols = n + 1 := ⟨c.cols - 1, by omega⟩
  have hall : (rowStages row c.cols ++ p.sr).take c.cols = rowStages row c.cols :=
    List.take_left' (rowStages_length row c.cols)
  have hcolumns := panelAfter_columns c (levelsAfter ln (.write .oe true :: setAddrEvents c a)) p row n
  rw [← hn, hall] at hcolumns
  rw [rowTrace_eq_parts, panelAfter_append, panelAfter_rowHead, panelAfter_append, hcolumns, panelAfter_rowTailEvents]
  rfl

end PanelAfter

/-! ## What the events since a state have made of the lines and the panel -/

/-- From `m` to `t` the trace has grown by `es`, and LINE and the panel are what `es` makes of them
(44_line_primitives.md R196, R199, 45_panel_observer.md R210). -/
structure State.Drives (m : State) (es : List Event) (t : State) : Prop where
  cfg : t.cfg = m.cfg
  trace : t.trace = m.trace ++ es
  line : t.line = levelsAfter m.line es
  panel : t.panel = panelAfter m.cfg.cols m.line m.panel es

theorem State.Drives.trans {m u t : State} {es fs : List Event} (h : m.Drives es u) (h' : u.Drives fs t) :
    m.Drives (es ++ fs) t where
  cfg := h'.cfg.trans h.cfg
  trace := by rw [h'.trace, h.trace, List.append_assoc]
  line := by rw [h'.line, h.line, levelsAfter_append]
  panel := by rw [h'.panel, h.panel, h.line, h.cfg, panelAfter_append]

theorem step_sequencer_drives {s t : State} {a i : Nat} (hseq : s.seq = .busy a i) (ht : s.turn = some .sequencer)
    (h : step s = .next t) : s.Drives (rowStep s.cfg s.px a i).events t where
  cfg := step_cfg h
  trace := step_sequencer_trace hseq ht h
  line := step_sequencer_line hseq ht h
  panel := by
    obtain ⟨_, _, hseq', -, -, -, -, -, -, -, -, -, hentry⟩ := step_sequencer_cases ht h
    cases hseq.symm.trans hseq'
    rcases hentry with ⟨r, k, he, -, -, -, e, -⟩ | ⟨l, v, he, -, -, -, -, e, -⟩ | ⟨n, he, -, -, -, e, -⟩ <;>
      rw [he, e] <;> rfl

/-! ## The dwell -/

section Dwell

variable {c : Config} {a : Nat}

/-- The row's last entry (43_row_mux_timer.md R177). -/
theorem rowStep_dwell (px : Color) : rowStep c px a (c.latchBase + 5) = .issue (.slp c.tDwell) :=
  rowStep_tail c px a 5

/-- The row's events end with the dwell's. -/
theorem eventsBefore_dwell (fb : Memory) :
    eventsBefore c fb a (c.latchBase + 5) ++ [.delay c.tDwell] =
      eventsBefore c fb a 0 ++ rowTrace c a (rowColors c fb a) := by
  have hlast : c.latchBase + 5 + 1 = c.rowLength := c.rowLength_eq.symm
  have hpx : HoldsColumn c (rowColors c fb a) 0#3 (c.latchBase + 5) := fun col j _ _ _ h => by
    unfold Config.latchBase Config.columnBase at h
    omega
  have hgrown := eventsBefore_succ (by omega) hpx
  rw [rowStep_dwell, hlast, eventsBefore_rowLength, eventsBefore_row, List.range_succ, List.flatMap_append,
    List.flatMap_singleton, ← eventsBefore_row] at hgrown
  exact hgrown.symm

/-- Before the dwell the latch has taken the row, whatever the earlier rows left (R214, R217 (a)). -/
theorem panelAfter_eventsBefore_dwell (hcols : 0 < c.cols) (ln : Lines) (p : Panel) (fb : Memory) :
    (panelAfter c.cols ln p (eventsBefore c fb a (c.latchBase + 5))).latched =
      rowStages (rowColors c fb a) c.cols := by
  have hdelay : panelAfter c.cols ln p (eventsBefore c fb a (c.latchBase + 5)) =
      panelAfter c.cols ln p (eventsBefore c fb a (c.latchBase + 5) ++ [.delay c.tDwell]) := by
    rw [panelAfter_append]
    rfl
  rw [hdelay, eventsBefore_dwell, panelAfter_append, panelAfter_rowTrace c _ _ hcols]

/-- At the dwell OE is active and the address lines say `a` (43_row_mux_timer.md R178, 45_panel_observer.md R215). -/
theorem RowLines.illuminated_dwell {ln : Lines} {px : Color} (ha : a < c.rows)
    (h : RowLines c ln px a (c.latchBase + 5)) (p : Panel) : p.illuminated c.aw ln = some (a, p.latched) := by
  obtain ⟨hoe, haddr, -⟩ := (rowLines_tail_iff (by omega)).1 h
  have hfits : a < 2 ^ c.aw := ha.trans_le (addressWidth_le_iff.1 le_rfl)
  rw [Panel.illuminated, hoe, addressOnLines_eq_mod haddr, Nat.mod_eq_of_lt hfits]
  rfl

end Dwell

/-- The dwell's step moves no line and not the panel. -/
theorem step_dwell_frame {s t : State} {a : Nat} (hseq : s.seq = .busy a (s.cfg.latchBase + 5))
    (ht : s.turn = some .sequencer) (h : step s = .next t) : t.line = s.line ∧ t.panel = s.panel := by
  have hdrives := step_sequencer_drives hseq ht h
  rw [rowStep_dwell] at hdrives
  exact ⟨hdrives.line, hdrives.panel⟩

/-! ## Every row of a quiet refresh -/

/-- Within a refresh the number of steps fixes the position (R135). -/
theorem StandsAt.eq_busy {c : Config} {a i : Nat} {q : Seq} (h : StandsAt c (a * c.rowLength + i) q)
    (hr : positionInRange c a i = true) : q = .busy a i := by
  obtain ⟨ha, hi⟩ := (positionInRange_iff c a i).1 hr
  cases q with
  | idle =>
    have hle : (a + 1) * c.rowLength ≤ c.rows * c.rowLength := Nat.mul_le_mul_right _ ha
    rw [Nat.succ_mul, ← show a * c.rowLength + i = c.rows * c.rowLength from h] at hle
    omega
  | busy a' i' =>
    obtain ⟨hr', hn⟩ := h
    obtain ⟨-, hi'⟩ := (positionInRange_iff c a' i').1 hr'
    have hrow := congrArg (· / c.rowLength) hn
    have hentry := congrArg (· % c.rowLength) hn
    simp only [Nat.mul_comm _ c.rowLength, Nat.mul_add_div (Nat.zero_lt_of_lt hi), Nat.div_eq_of_lt hi,
      Nat.div_eq_of_lt hi', Nat.mul_add_mod, Nat.mod_eq_of_lt hi, Nat.mod_eq_of_lt hi', Nat.add_zero] at hrow hentry
    rw [hrow, hentry]

/-- What a quiet refresh that began in `s` keeps: it renders the framebuffer, the lines follow its position, and the
panel is what its events have made of it. -/
structure Displays (s t : State) : Prop where
  renders : RendersFrom s.trace t
  follow : t.linesFollow
  drives : ∃ es, s.Drives es t

theorem displays_refreshBegun {s : State} (hw : s.cfg.wellFormed = true) : Displays s s.refreshBegun where
  renders := .inl (rendering_start (s := s.refreshBegun) hw rfl)
  follow := linesFollow_of_row_start (s := s.refreshBegun) rfl
  drives := ⟨[], rfl, (List.append_nil _).symm, rfl, rfl⟩

theorem step_sequencer_keeps_displays {s u t : State} (hu : Displays s u) (ht : u.turn = some .sequencer)
    (h : step u = .next t) : Displays s t := by
  obtain ⟨hrenders, hfollow, es, hdrives⟩ := hu
  obtain ⟨a, i, hseq, -⟩ := step_sequencer_cases ht h
  exact ⟨step_sequencer_keeps_rendersFrom hrenders ht h, stepKeepsLinesFollow u t hfollow h, _,
    hdrives.trans (step_sequencer_drives hseq ht h)⟩

theorem Displays.cfg {s t : State} (h : Displays s t) : t.cfg = s.cfg := by
  obtain ⟨-, -, _, hdrives⟩ := h
  exact hdrives.cfg

/-- Before the dwell of row `a` the output stage holds the row as the framebuffer has it (R214). -/
theorem Displays.latched_dwell {s t : State} {a : Nat} (h : Displays s t) (hcols : 0 < s.cfg.cols)
    (hseq : t.seq = .busy a (t.cfg.latchBase + 5)) :
    t.panel.latched = rowStages (rowColors t.cfg t.fb a) t.cfg.cols := by
  obtain ⟨hrenders, -, es, hcfg, htrace, -, hpanel⟩ := h
  rcases hrenders with hrendering | ⟨hidle, -⟩
  · obtain ⟨-, hevents, -⟩ := (rendering_iff hseq _).1 hrendering
    rw [hpanel, List.append_cancel_left (htrace.symm.trans hevents), hcfg, panelAfter_eventsBefore_dwell hcols]
  · cases hseq.symm.trans hidle

/-- Before its dwell the panel shows row `a`, at its address (R217 (a)). -/
theorem Displays.illuminated_dwell {s t : State} {a : Nat} (h : Displays s t) (hw : s.cfg.wellFormed = true)
    (ha : a < s.cfg.rows) (hseq : t.seq = .busy a (t.cfg.latchBase + 5)) :
    t.panel.illuminated t.cfg.aw t.line = some (a, rowStages (rowColors t.cfg t.fb a) t.cfg.cols) := by
  obtain ⟨-, -, hcols, -⟩ := s.cfg.wellFormed_iff.1 hw
  rw [← h.latched_dwell hcols hseq]
  exact ((linesFollow_iff hseq).1 h.follow).illuminated_dwell (h.cfg ▸ ha) t.panel

/-- The dwell of row `a` is step a·L + L−1 of a quiet refresh (R135), and not beyond its end. -/
theorem dwell_lt_refresh {c : Config} {a : Nat} (ha : a < c.rows) :
    a * c.rowLength + (c.rowLength - 1) < c.rows * c.rowLength := by
  have hle : (a + 1) * c.rowLength ≤ c.rows * c.rowLength := Nat.mul_le_mul_right _ ha
  have hlength := c.rowLength_eq
  rw [Nat.succ_mul] at hle
  omega

/-- A quiet refresh comes to the dwell of every row, and it is the sequencer's turn there. -/
theorem State.startsQuietRefresh.reaches_dwell {s : State} {a : Nat} (h : s.startsQuietRefresh) (ha : a < s.cfg.rows) :
    ∃ t, s.runsTo (1 + a * s.cfg.rowLength + (s.cfg.rowLength - 1)) t ∧ Displays s t ∧ t.fb = s.fb ∧
      t.seq = .busy a (s.cfg.rowLength - 1) ∧ t.turn = some .sequencer ∧ ∃ u, step t = .next u := by
  have hr : positionInRange s.cfg a (s.cfg.rowLength - 1) = true :=
    (positionInRange_iff _ _ _).2 ⟨ha, by rw [s.cfg.rowLength_eq]; omega⟩
  have hwaits : s.refreshBegun.sched = [] := by simp [State.refreshBegun, h.waits]
  have hn := dwell_lt_refresh ha
  obtain ⟨t, hrun, hquiet, hdisplays⟩ := quietRefresh_runs (m := s.refreshBegun) h.configured rfl hwaits
    (displays_refreshBegun h.configured) (fun _ _ hturn _ _ hu hstep => step_sequencer_keeps_displays hu hturn hstep)
    hn.le
  obtain ⟨hturn, u, hstep, -⟩ := hquiet.succ (m := s.refreshBegun) h.configured hn
  rw [Nat.add_assoc]
  exact ⟨t, State.runsTo_add (State.runsTo_succ.2 ⟨_, h.step_eq, State.runsTo_zero.2 rfl⟩) hrun, hdisplays, hquiet.fb,
    hquiet.position.eq_busy hr, hturn, u, hstep⟩

/-- Settles O58: the panel shows row a where its dwell begins, and the dwell moves neither the lines nor the panel. -/
theorem everyRowIsShown : Obligations.EveryRowIsShown := by
  intro s a h ha
  obtain ⟨t, hrun, hdisplays, hfb, hseq, hturn, u, hstep⟩ := h.reaches_dwell ha
  have hcfg := hdisplays.cfg
  have hlast : s.cfg.rowLength - 1 = t.cfg.latchBase + 5 := by rw [hcfg, s.cfg.rowLength_eq]; rfl
  have hdwell : t.seq = .busy a (t.cfg.latchBase + 5) := hlast ▸ hseq
  have hshown := hdisplays.illuminated_dwell h.configured ha hdwell
  obtain ⟨hline, hpanel⟩ := step_dwell_frame hdwell hturn hstep
  obtain ⟨_, _, hseq', -, hadvance, hcfg', -⟩ := step_sequencer_cases hturn hstep
  cases hseq.symm.trans hseq'
  refine ⟨t, u, _, hrun, hstep, hseq, ?_, hshown, ?_, ?_⟩
  · rw [hadvance, hcfg, advanceSeq, if_neg (by omega)]
  · rw [hpanel, hline, hcfg', hshown]
  · rw [hcfg, hfb]
    exact rowInStages_rowStages (rowColors s.cfg s.fb a) s.cfg.cols

end Sys2Proof.Machine

/-! The line primitives (44_line_primitives.md): what WL and SLP do, that the waveform shows what the trace shows, and
that every step leaves LINE, the panel and the time as its event says. -/

namespace Sys2Proof.Machine

/-! ## WL and SLP -/

theorem exec_wl_of_present {s : State} {l : Line} (v : Level) (h : l.present s.cfg.aw = true) :
    exec (.wl l v) s = .next (((s.writeLine l v).emit (.write l v)).elapse 0) := by
  rcases execWl_cases l v s with ⟨-, e⟩ | ⟨habsent, -⟩
  · exact e
  · simp [h] at habsent

theorem exec_slp (n : Nat) (s : State) : exec (.slp n) s = .next ((s.emit (.delay n)).elapse n) := rfl

/-- Settles O23: the arm of WL at a line that exists, which `getLine_setLine` reads line by line. -/
theorem wlSetsItsLine : Obligations.WlSetsItsLine := by
  intro s l v hpresent
  refine ⟨_, exec_wl_of_present v hpresent, fun l' => ?_, rfl, rfl, ?_⟩
  · exact getLine_setLine s.line l l' v (Line.present_twelve hpresent)
  · constructor <;> intros <;> rfl

/-- Beside `setLine_same`: a write that changes no level is no rising edge (45_panel_observer.md R212, R214). -/
theorem Panel.onWrite_same (cols : Nat) (p : Panel) (ln : Lines) (l : Line) :
    p.onWrite cols ln l (getLine ln l) = p := by
  cases l with
  | clk => exact if_neg (by simp [getLine])
  | lat => exact if_neg (by simp [getLine])
  | _ => rfl

/-- Settles O25: such a write leaves both LINE and the panel as they were, and its event is appended all the same. -/
theorem redundantWriteIsSilent : Obligations.RedundantWriteIsSilent := by
  rintro s l _ hpresent rfl
  exact ⟨_, exec_wl_of_present _ hpresent, setLine_same s.line l, s.panel.onWrite_same s.cfg.cols s.line l, rfl⟩

/-- Settles O26: the time asked for passes, and the free overshoot only adds to it (R200). -/
theorem slpWaitsAtLeast : Obligations.SlpWaitsAtLeast := by
  intro s n
  refine ⟨_, exec_slp n s, rfl, ?_, rfl, rfl, ?_⟩
  · simp
  · constructor <;> intros <;> rfl

/-! ## The waveform -/

theorem levelsAfter_waveform (ln : Lines) (es : List Event) : levelsAfter ln (waveform ln es) = levelsAfter ln es := by
  induction es generalizing ln with
  | nil => rfl
  | cons e es ih =>
    cases e with
    | delay n => exact ih ln
    | write l v =>
      rw [waveform, levelsAfter_cons, Event.levels]
      split
      case isTrue hsame => rw [← hsame, setLine_same, ih]
      case isFalse => exact ih (setLine ln l v)

theorem panelAfter_waveform (cols : Nat) (ln : Lines) (p : Panel) (es : List Event) :
    panelAfter cols ln p (waveform ln es) = panelAfter cols ln p es := by
  induction es generalizing ln p with
  | nil => rfl
  | cons e es ih =>
    cases e with
    | delay n => exact ih ln p
    | write l v =>
      rw [waveform, panelAfter]
      split
      case isTrue hsame => rw [← hsame, setLine_same, Panel.onWrite_same, ih]
      case isFalse => exact ih (setLine ln l v) (p.onWrite cols ln l v)

/-- Settles O54: the writes left out are those that change no level, and these move neither LINE nor the panel. -/
theorem waveformShowsTheSame : Obligations.WaveformShowsTheSame :=
  fun cols ln p es => ⟨levelsAfter_waveform ln es, panelAfter_waveform cols ln p es⟩

/-! ## The event of a step -/

/-- What a step leaves in the trace accounts for it: at most one event, LINE and the panel are what the event makes of
them, and the delay it asks for has passed (R191, R196, R200). -/
structure LeavesEvents (s : State) (es : List Event) (t : State) : Prop where
  atMostOne : es.length ≤ 1
  drives : s.Drives es t
  waits : s.time + requestedDelay es ≤ t.time

/-- Where the lines, the trace and the panel stand still (10_state.md R28, 60_exceptions.md R242) only time passes. -/
theorem HostFrame.leavesNoEvent {s t : State} (h : HostFrame s t) (htime : s.time ≤ t.time) : LeavesEvents s [] t where
  atMostOne := Nat.zero_le 1
  drives := ⟨h.cfg, h.trace.trans (List.append_nil _).symm, h.line, h.panel⟩
  waits := htime

/-- A command's time, as any step's, only grows (R200). -/
theorem exec_command_time_le {i : Instr} {s t : State} (hi : i.isCommand = true) (h : exec i s = .next t) :
    s.time ≤ t.time := by
  cases i with
  | clear =>
    rw [exec] at h
    rcases execClear_cases s with ⟨-, e⟩ | ⟨-, e⟩ <;> rw [e] at h <;> cases h <;> simp
  | setPixel row col k =>
    rw [exec] at h
    rcases execSetPixel_cases row col k s with ⟨-, e⟩ | ⟨-, e⟩ <;> rw [e] at h <;> cases h <;> simp
  | getPixel row col =>
    rw [exec] at h
    rcases execGetPixel_cases row col s with ⟨-, e⟩ | ⟨-, e⟩ <;> rw [e] at h <;> cases h <;> simp
  | refreshOnce =>
    rw [exec] at h
    rcases execRefreshOnce_cases s with ⟨-, e⟩ | ⟨-, e⟩ <;> rw [e] at h <;> cases h <;> simp
  | wl l v => cases hi
  | slp n => cases hi

theorem hostStep_time_le {s t : State} (h : hostStep s = .next t) : s.time ≤ t.time := by
  rcases hostStep_cases h with ⟨-, rfl⟩ | ⟨-, -, rfl⟩ | ⟨-, w, rest, i, -, hi, he⟩
  · simp
  · exact le_rfl
  · exact exec_command_time_le (s := s.takeWord) (decodeCommand_isCommand hi) he

/-- An entry of RowScan is one READ, which leaves no event (00_scope.md R14), or one micro-operation. -/
theorem RowStep.length_events_le_one (e : RowStep) : e.events.length ≤ 1 := by
  cases e with
  | read r k => exact Nat.zero_le 1
  | issue u => cases u <;> simp [RowStep.events]

theorem step_sequencer_leavesEvents {s t : State} {a i : Nat} (hseq : s.seq = .busy a i) (ht : s.turn = some .sequencer)
    (h : step s = .next t) : LeavesEvents s (rowStep s.cfg s.px a i).events t where
  atMostOne := RowStep.length_events_le_one _
  drives := step_sequencer_drives hseq ht h
  waits := by
    have hcovers : CoversDelays s.trace s.time t := step_sequencer_keeps_coversDelays (s := s) le_rfl ht h
    rw [CoversDelays, step_sequencer_trace hseq ht h, requestedDelay_append] at hcovers
    omega

/-- What every step leaves, by which agent moves. -/
theorem step_leavesEvents {s t : State} (h : step s = .next t) : ∃ es, LeavesEvents s es t := by
  rcases (step_cases h).2 with ⟨-, rfl⟩ | ⟨hturn, hhost⟩ | ⟨hturn, -⟩
  · exact ⟨[], HostFrame.leavesNoEvent ⟨rfl, rfl, rfl, rfl, rfl⟩ le_rfl⟩
  · exact ⟨[], (step_host_frame hturn h).leavesNoEvent (hostStep_time_le (s := s.beginStep) hhost)⟩
  · obtain ⟨a, i, hseq, -⟩ := step_sequencer_cases hturn h
    exact ⟨_, step_sequencer_leavesEvents hseq hturn h⟩

/-- Settles O47: the events a step leaves are none or one. -/
theorem traceOnlyGrows : Obligations.TraceOnlyGrows := by
  intro s t h
  obtain ⟨es, hone, ⟨-, htrace, hline, -⟩, hwaits⟩ := step_leavesEvents h
  refine ⟨(Nat.le_add_right _ _).trans hwaits, ?_⟩
  rcases Nat.le_one_iff_eq_zero_or_eq_one.1 hone with hnone | hsingle
  · obtain rfl := List.eq_nil_of_length_eq_zero hnone
    exact .inl ⟨htrace.trans (List.append_nil _), hline⟩
  · obtain ⟨e, rfl⟩ := List.length_eq_one_iff.1 hsingle
    exact .inr ⟨e, htrace, hline, by simpa [requestedDelay] using hwaits⟩

/-- Levels and panel after the longer trace are those after its new part, from where the old part has left them. -/
theorem State.Drives.keeps_traceExplains {s t : State} {es : List Event} (h : s.Drives es t) (hs : s.traceExplains) :
    t.traceExplains where
  lines := by rw [h.line, h.cfg, h.trace, levelsAfter_append, ← hs.lines]
  panel := by rw [h.panel, h.cfg, h.trace, panelAfter_append, ← hs.lines, ← hs.panel]

/-- Settles O41: every step moves LINE and the panel by the events it leaves, and by nothing else. -/
theorem stepKeepsTraceExplains : Obligations.StepKeepsTraceExplains := by
  intro s t hs h
  obtain ⟨_, hleaves⟩ := step_leavesEvents h
  exact hleaves.drives.keeps_traceExplains hs

end Sys2Proof.Machine

/-! The panel observer (45_panel_observer.md R213, R214, R217): it moves only while OE is inactive, a row's events leave
the row in both its registers, and a refresh that nothing disturbs leaves the last row on it. -/

namespace Sys2Proof.Machine

/-! ## The panel moves only in the dark -/

/-- Outside the span from the first address line to the latch pulse an entry of RowScan writes OE or waits: the panel's
registers and the address lines keep still (R138). -/
theorem rowStep_still {c : Config} {a i : Nat} (hi : i < c.rowLength) (hends : i = 0 ∨ c.latchBase + 4 ≤ i) (px : Color)
    (ln : Lines) (p : Panel) :
    panelAfter c.cols ln p (rowStep c px a i).events = p ∧
      (levelsAfter ln (rowStep c px a i).events).addr = ln.addr := by
  rw [c.rowLength_eq] at hi
  rcases hends with rfl | hlate
  · rw [rowStep_zero]
    exact ⟨rfl, rfl⟩
  · obtain rfl | rfl : i = c.latchBase + 4 ∨ i = c.latchBase + 5 := by omega
    all_goals rw [rowStep_tail]; exact ⟨rfl, rfl⟩

/-- Past the output disable and up to the output enable OE is inactive (43_row_mux_timer.md R170, R176). -/
theorem RowLines.oe_inactive {c : Config} {ln : Lines} {px : Color} {a i : Nat} (h : RowLines c ln px a i) (hpos : 0 < i)
    (hi : i ≤ c.latchBase + 4) : getLine ln .oe = true :=
  (h.outputEnable hpos).trans (decide_eq_true hi)

/-- A step that moves the panel or an address line is the sequencer's, strictly between the output disable and the
output enable. -/
theorem step_moves_panel_position {s t : State} (h : step s = .next t)
    (hmoved : t.panel ≠ s.panel ∨ t.line.addr ≠ s.line.addr) :
    ∃ a i, s.seq = .busy a i ∧ t.seq = .busy a (i + 1) ∧ 0 < i ∧ i < s.cfg.latchBase + 4 := by
  have hmoves : ¬ (t.panel = s.panel ∧ t.line.addr = s.line.addr) := fun ⟨hpanel, haddr⟩ =>
    hmoved.elim (· hpanel) (· haddr)
  rcases (step_cases h).2 with ⟨-, rfl⟩ | ⟨hturn, -⟩ | ⟨hturn, -⟩
  · exact absurd ⟨rfl, rfl⟩ hmoves
  · obtain ⟨-, hline, -, -, hpanel⟩ := step_host_frame hturn h
    exact absurd ⟨hpanel, congrArg Lines.addr hline⟩ hmoves
  · obtain ⟨a, i, hseq, hr, hadvance, -⟩ := step_sequencer_cases hturn h
    obtain ⟨-, hi⟩ := (positionInRange_iff s.cfg a i).1 hr
    have hinside : 0 < i ∧ i < s.cfg.latchBase + 4 := by
      by_contra hends
      have hdrives := step_sequencer_drives hseq hturn h
      obtain ⟨hpanel, haddr⟩ := rowStep_still (a := a) hi (by omega) s.px s.line s.panel
      exact hmoves ⟨hdrives.panel.trans hpanel, (congrArg Lines.addr hdrives.line).trans haddr⟩
    obtain ⟨hpos, hbefore⟩ := hinside
    rw [advanceSeq, if_pos (by rw [s.cfg.rowLength_eq]; omega)] at hadvance
    exact ⟨a, i, hseq, hadvance, hpos, hbefore⟩

/-- Settles O43: where the panel moves, the lines follow RowScan within OE's inactive span before and after. -/
theorem panelMovesOnlyInTheDark : Obligations.PanelMovesOnlyInTheDark := by
  intro s t hs h hmoved
  obtain ⟨a, i, hseq, hseq', hpos, hbefore⟩ := step_moves_panel_position h hmoved
  have hlines := (linesFollow_iff hseq).1 hs
  have hlines' := (linesFollow_iff hseq').1 (stepKeepsLinesFollow s t hs h)
  rw [step_cfg h] at hlines'
  exact ⟨hlines.oe_inactive hpos hbefore.le, hlines'.oe_inactive (Nat.succ_pos i) hbefore⟩

/-! ## The panel after a row and after a frame -/

/-- Settles O55: both registers hold the stages that the row's columns have filled. -/
theorem panelHoldsRowAfterRow : Obligations.PanelHoldsRowAfterRow := by
  intro c ln p a row hcols
  rw [panelAfter_rowTrace c ln p hcols]
  exact ⟨rowInStages_rowStages row c.cols, rowInStages_rowStages row c.cols⟩

/-- Of a frame only its last row is left in the panel: each row's events displace the row before (R213). -/
theorem panelAfter_frameTrace {c : Config} (hrows : 0 < c.rows) (hcols : 0 < c.cols) (ln : Lines) (p : Panel)
    (fb : Memory) :
    panelAfter c.cols ln p (frameTrace c fb) =
      { sr := rowStages (rowColors c fb (c.rows - 1)) c.cols
        latched := rowStages (rowColors c fb (c.rows - 1)) c.cols } := by
  obtain ⟨n, hn⟩ : ∃ n, c.rows = n + 1 := ⟨c.rows - 1, by omega⟩
  rw [frameTrace, hn, List.range_succ, List.flatMap_append, List.flatMap_singleton, panelAfter_append,
    panelAfter_rowTrace c _ _ hcols, Nat.add_sub_cancel]

/-! ## The panel after a quiet refresh -/

/-- Once a quiet refresh is over, the panel is what its frame has made of it. -/
theorem Displays.panel_of_idle {s t : State} (h : Displays s t) (hidle : t.seq = .idle) :
    t.panel = panelAfter s.cfg.cols s.line s.panel (frameTrace s.cfg t.fb) := by
  obtain ⟨hrenders, -, es, hcfg, htrace, -, hpanel⟩ := h
  rw [hpanel, List.append_cancel_left (htrace.symm.trans (hrenders.trace_of_idle hidle)), hcfg]

/-- With OE active and row `a` on the address lines the panel shows its output stage in row `a` (R215). -/
theorem HoldsAddress.illuminated {c : Config} {ln : Lines} {a : Nat} (h : HoldsAddress c ln a) (hoe : ln.oe = false)
    (ha : a < c.rows) (p : Panel) : p.illuminated c.aw ln = some (a, p.latched) := by
  have hfits : a < 2 ^ c.aw := ha.trans_le (addressWidth_le_iff.1 le_rfl)
  rw [Panel.illuminated, hoe, addressOnLines_eq_mod h, Nat.mod_eq_of_lt hfits]
  rfl

/-- The machine is deterministic: a run's length fixes where it leads. -/
theorem State.runsTo_unique {k : Nat} {s t u : State} (ht : s.runsTo k t) (hu : s.runsTo k u) : t = u := by
  induction k generalizing s with
  | zero => exact ht.trans hu.symm
  | succ k ih =>
    obtain ⟨m, hm, ht⟩ := State.runsTo_succ.1 ht
    obtain ⟨m', hm', hu⟩ := State.runsTo_succ.1 hu
    cases hm.symm.trans hm'
    exact ih ht hu

/-- Settles O59: the frame leaves its last row in both registers, and the lines that the refresh leaves (R137) show
it. -/
theorem refreshLeavesLastRowShown : Obligations.RefreshLeavesLastRowShown := by
  intro s h
  obtain ⟨hrows, -, hcols, -⟩ := s.cfg.wellFormed_iff.1 h.configured
  obtain ⟨t, hrun, hquiet, hdisplays⟩ := h.runs (P := Displays s) (displays_refreshBegun h.configured)
    fun _ _ hturn _ _ hu hstep => step_sequencer_keeps_displays hu hturn hstep
  obtain ⟨t', hrun', hoe, -, -, haddr, -⟩ := refreshLeavesLines s h
  obtain rfl := State.runsTo_unique hrun hrun'
  have hfb : t.fb = s.fb := hquiet.fb
  have hpanel := hdisplays.panel_of_idle hquiet.idle
  rw [hfb, panelAfter_frameTrace hrows hcols] at hpanel
  have hshown := HoldsAddress.illuminated haddr hoe (Nat.sub_lt hrows Nat.one_pos) t.panel
  have hstages := rowInStages_rowStages (rowColors s.cfg s.fb (s.cfg.rows - 1)) s.cfg.cols
  refine ⟨t, _, hrun, State.busy_eq_false hquiet.idle, by rw [hdisplays.cfg]; exact hshown, ?_, ?_⟩ <;>
    rw [hpanel] <;> exact hstages

end Sys2Proof.Machine

/-! The command port and who moves (60_exceptions.md R238, R240, R241): the host's turn runs the command presented,
and a REFRESH_ONCE presented during a refresh waits for Idle. -/

namespace Sys2Proof.Machine

/-! ## The command on the port -/

/-- With no CLEAR in progress the host is ready exactly when the port takes the command at its head (R241 (a)). -/
theorem hostReady_of_command {s : State} {w : Word} {rest : List Word} {i : Instr} (hclear : s.clearing = [])
    (hport : s.port = w :: rest) (hdec : decodeCommand w = .ok i) : s.hostReady = s.accepts i := by
  simp [State.hostReady, hclear, hport, hdec]

/-- Where the host is ready a turn is contested exactly while BUSY = 1, so only then is the schedule used up
(log 4). -/
theorem takeWord_beginStep_of_ready {s : State} {w : Word} {rest : List Word} (hready : s.hostReady = true)
    (hport : s.port = w :: rest) :
    s.beginStep.takeWord =
      { s with resp := none, port := rest, sched := if s.busy then s.sched.tail else s.sched } := by
  simp [State.beginStep, State.takeWord, State.contested, hready, hport]

/-- Settles O27: the host's branch of the step, with a word on the port that decodes. -/
theorem stepRunsPresentedCommand : Obligations.StepRunsPresentedCommand := by
  intro s w rest i hw hclear hport hdec _ hmoves
  have hturn := s.turn_host_iff.2 hmoves
  obtain ⟨hready, -⟩ := hmoves
  calc step s = hostStep s.beginStep := step_of_host hw hturn
    _ = exec i s.beginStep.takeWord := hostStep_of_command (s := s.beginStep) hclear hport hdec
    _ = _ := by rw [takeWord_beginStep_of_ready hready hport]

/-! ## REFRESH_ONCE held -/

/-- Settles O21: the branch of REFRESH_ONCE where SEQ ≠ Idle, beside `exec_refreshOnce_of_idle`. -/
theorem refreshHeldWhileBusy : Obligations.RefreshHeldWhileBusy := by
  intro s a i hseq
  rcases execRefreshOnce_cases s with ⟨hidle, -⟩ | ⟨-, hheld⟩
  · simp [State.busy_eq_true hseq] at hidle
  · exact hheld

/-- REFRESH_ONCE at the head of the port makes the host ready exactly at Idle: held, it is no enabled step (R238). -/
theorem hostReady_of_refreshOnce {s : State} {w : Word} {rest : List Word} (hclear : s.clearing = [])
    (hport : s.port = w :: rest) (hdec : decodeCommand w = .ok .refreshOnce) : s.hostReady = !s.busy :=
  hostReady_of_command hclear hport hdec

/-- The sequencer reads FB and never writes it (10_state.md R22, R34): the cells as one list, beside O45. -/
theorem step_sequencer_fb {s t : State} (ht : s.turn = some .sequencer) (h : step s = .next t) : t.fb = s.fb := by
  obtain ⟨_, _, -, -, -, -, hfb, -⟩ := step_sequencer_cases ht h
  exact hfb

/-- Settles O22: while BUSY = 1 the host is not ready, so the sequencer moves on (O34); at Idle the host moves and
its command is the one presented (O27), which is accepted. -/
theorem heldRefreshWaitsForIdle : Obligations.HeldRefreshWaitsForIdle := by
  intro s w rest hinv hclear hport hdec
  have hready := hostReady_of_refreshOnce hclear hport hdec
  refine ⟨fun a i hseq => ?_, fun hidle => ?_⟩
  · have hbusy := State.busy_eq_true hseq
    have hmoves : s.sequencerMoves := ⟨hbusy, .inl (by simp [hready, hbusy])⟩
    obtain ⟨t, hstep, hadvance, hport', -⟩ := sequencerAlwaysAdvances s a i hinv hseq hmoves
    exact ⟨t, hstep, hport'.trans hport, hadvance, step_sequencer_fb (s.turn_sequencer_iff.2 hmoves) hstep⟩
  · have hbusy := State.busy_eq_false hidle
    have haccepts : s.accepts .refreshOnce = true := by simp [State.accepts, hbusy]
    have hmoves : s.hostMoves := ⟨by simp [hready, hbusy], .inl hbusy⟩
    have hstep := stepRunsPresentedCommand s w rest _ hinv.configured hclear hport hdec haccepts hmoves
    exact ⟨_, hstep.trans (exec_refreshOnce_of_idle hidle), rfl, rfl⟩

end Sys2Proof.Machine
